-- ==== Sys2Proof/Word.lean ====
section
/-! DEFINITION. The fixed widths of the unit (00_scope.md R7) and the native word (10_state.md R20). -/

namespace Sys2Proof

/-- A native word of `w` bits, `w` being 32 or 64: unsigned, arithmetic modulo `2^w` (10_state.md R20). -/
abbrev NativeWord (w : Nat) := BitVec w

/-- A command word, CMDW = 16 bits (00_scope.md R7, 30_encoding.md R55). -/
abbrev CmdWord := BitVec 16

/-- The integer operand bus and the response data bus, INTW = 256 bits (30_encoding.md R57, R59, R61). -/
abbrev Bus := BitVec 256

/-- The index field of GETW32 and GETW64, IDXW = 8 bits, unsigned (30_encoding.md R64). -/
abbrev Idx := BitVec 8

/-- A status code on the port `rsp_status`, STW = 3 bits (30_encoding.md R60). -/
abbrev StatusCode := BitVec 3

end Sys2Proof
end

