-- ==== Sys2Proof/Syntax.lean ====
section
/-! DEFINITION. The operands and the nine commands of the unit (30_encoding.md R63 to R66). -/

namespace Sys2Proof

/-- The closed set of value shapes, (arity) x (native width) (00_scope.md R6, 30_encoding.md R63). -/
inductive Shape where
  | s2x32
  | s4x32
  | s2x64
  | s4x64
  deriving DecidableEq, Repr

/-- The granularity of a word view (00_scope.md R6). -/
inductive Granularity where
  | g32
  | g64
  deriving DecidableEq, Repr

/-- The four value registers (10_state.md R26). -/
inductive Reg where
  | v0
  | v1
  | v2
  | v3
  deriving DecidableEq, Repr

/-- One constructor per row of spec/opcode_table.json. Integer operands range over all integers
(30_encoding.md R61: in a model the command carries the integer itself). -/
inductive Instr where
  /-- FROMINT vd, Sshape, #n (40_fixedwidth.md R86) -/
  | fromint (rd : Reg) (sh : Shape) (n : Int)
  /-- TOINT vs (40_fixedwidth.md R87) -/
  | toint (rs : Reg)
  /-- BITW Sshape (40_fixedwidth.md R88) -/
  | bitw (sh : Shape)
  /-- INC vd, vs (41_counter.md R103) -/
  | inc (rd rs : Reg)
  /-- SKIP vd, vs, #offset (41_counter.md R104) -/
  | skip (rd rs : Reg) (offset : Int)
  /-- NUMW32 Sshape (42_wordview.md R119) -/
  | numw32 (sh : Shape)
  /-- NUMW64 Sshape (42_wordview.md R120) -/
  | numw64 (sh : Shape)
  /-- GETW32 vs, idx (42_wordview.md R121) -/
  | getw32 (rs : Reg) (idx : Idx)
  /-- GETW64 vs, idx (42_wordview.md R122) -/
  | getw64 (rs : Reg) (idx : Idx)
  deriving DecidableEq, Repr

end Sys2Proof
end

