-- ==== Sys2Proof/Machine/State.lean ====
section
/-! DEFINITION. The state of the unit, its reset value, and the reasons a step could stop (10_state.md). -/

namespace Sys2Proof.Machine

/-- An ordered sequence of 2 or 4 native words of one width, `e[0]`, the most significant, first (10_state.md R21, R22). -/
inductive Tuple (w : Nat) where
  | two (e0 e1 : NativeWord w)
  | four (e0 e1 e2 e3 : NativeWord w)
  deriving DecidableEq, Repr

/-- A tuple of 32-bit or of 64-bit words. The arity and the width are the two bits of the shape tag that travels with
the value (10_state.md R25, 30_encoding.md R63). -/
inductive Value where
  | w32 (t : Tuple 32)
  | w64 (t : Tuple 64)
  deriving DecidableEq, Repr

/-- The content of a value register. `invalid` is the spec's own state of a register that nothing has written since
reset; it has no value (10_state.md R27, R28). -/
inductive RegContent where
  | invalid
  | valid (x : Value)
  deriving DecidableEq, Repr

/-- The register file (10_state.md R26). -/
structure RegFile where
  v0 : RegContent
  v1 : RegContent
  v2 : RegContent
  v3 : RegContent
  deriving DecidableEq, Repr

/-- What `FSR.CAUSE` can hold; the codes 4 to 7 do not exist (10_state.md R30, 60_exceptions.md R130,
93_implementation_defined.md U12). -/
inductive Cause where
  /-- code 0: no fault since reset -/
  | none
  /-- code 1 (60_exceptions.md R131) -/
  | invalidIndex
  /-- code 2 (60_exceptions.md R132) -/
  | illegalCommand
  /-- code 3 (60_exceptions.md R133) -/
  | unwrittenRegister
  deriving DecidableEq, Repr

/-- The fault status register (10_state.md R30). -/
structure Fsr where
  /-- `FSR.F`: a fault has been taken since reset -/
  f : Bool
  /-- `FSR.CAUSE` -/
  cause : Cause
  /-- `FSR.CMD`: the word that faulted -/
  cmd : CmdWord
  deriving DecidableEq, Repr

/-- The status of a response; the codes 5 to 7 do not exist (30_encoding.md R60). -/
inductive Status where
  | ok
  | invalidIndex
  | illegalCommand
  | unwrittenRegister
  | halted
  deriving DecidableEq, Repr

/-- A response (30_encoding.md R59). -/
structure Response where
  status : Status
  data : Bus
  deriving DecidableEq, Repr

/-- What the unit samples at the accepting edge (70_reset_and_hazards.md R159). -/
structure Command where
  cmd : CmdWord
  cmdInt : Bus
  deriving DecidableEq, Repr

/-- A command in flight: the sampled command and the cycles still to go before the edge that starts its response
cycle (70_reset_and_hazards.md R160, R161, R167). -/
structure InFlight where
  command : Command
  wait : Nat
  deriving DecidableEq, Repr

/-- What the host does next (00_scope.md R15, R16; 30_encoding.md R58; 70_reset_and_hazards.md R157). -/
inductive HostEvent where
  /-- present a command word and an integer -/
  | command (cmd : CmdWord) (int : Int)
  /-- assert `rst` between two commands -/
  | reset
  deriving DecidableEq, Repr

/-- The state. The first four fields are the spec's (10_state.md R26, R30, R35, R36); the last three are the model's
own (log entries 1 and 3). -/
structure State where
  /-- the value registers (10_state.md R26) -/
  v : RegFile
  /-- the fault status register (10_state.md R30) -/
  fsr : Fsr
  /-- the command in flight; `busy` is whether there is one (10_state.md R35) -/
  inflight : Option InFlight
  /-- the response the unit shows; `rsp_valid` is whether there is one (30_encoding.md R57) -/
  rsp : Option Response
  /-- model's own: what the host has still to present, first one first -/
  host : List HostEvent
  /-- model's own: the responses issued so far, oldest first (00_scope.md R16) -/
  responses : List Response
  /-- model's own: the counter that makes the states of any two steps differ, and with them the free values of Config -/
  fresh : Nat
  deriving DecidableEq, Repr

/-- What stops the machine with a fault: nothing. The three faults of 60_exceptions.md R130 are taken as R137 describes
and leave a next state; a halted unit still answers (R139). -/
inductive Fault where
  deriving DecidableEq, Repr

/-- Why an instruction could have no meaning. -/
inductive Refusal where
  /-- raised by an arm of `exec` whose instruction has no meaning yet; safe; no arm raises it -/
  | notModelled (mnemonic : String)
  deriving DecidableEq, Repr

/-- The outcome of a step of this machine. -/
abbrev Result := Host.Outcome State Fault Refusal

/-- The four value registers after reset: invalid (10_state.md R36). -/
def RegFile.reset : RegFile := ⟨.invalid, .invalid, .invalid, .invalid⟩

/-- FSR after reset: all fields 0 (10_state.md R36). -/
def Fsr.reset : Fsr := ⟨false, .none, 0⟩

/-- The unit right after reset (10_state.md R36, 70_reset_and_hazards.md R156), with nothing placed by a host. -/
def State.reset : State :=
  { v := RegFile.reset, fsr := Fsr.reset, inflight := none, rsp := none, host := [], responses := [], fresh := 0 }

end Sys2Proof.Machine
end

