-- ==== Sys2Proof/Config.lean ====
section
/-! DEFINITION. What the spec leaves open: each is a free value, an opaque constant that nothing can evaluate. Each is
applied to the whole state, so that it may differ with anything the unit holds, and from one cycle to the next because
`State.fresh` does. The fixed parameters of 00_scope.md R7 are the widths of Word.lean and the four constructors of
`Reg`. -/

namespace Sys2Proof.Config

open Sys2Proof.Machine

/-- `LAT - 1` of a command accepted in a given state: the cycles it stays in flight beyond the one every command takes
(70_reset_and_hazards.md R167: LAT is any integer ≥ 1 and may differ with the command, its shape and its operand). Free
value, log entry 3. -/
opaque extraLatency : State → Command → Nat

/-- `rsp_status` in a cycle with `rsp_valid = 0` (70_reset_and_hazards.md R161: unspecified). Free value, log entry 4. -/
opaque idleStatus : State → StatusCode

/-- `rsp_data` in a cycle with `rsp_valid = 0` (70_reset_and_hazards.md R161: unspecified). Free value, log entry 4. -/
opaque idleData : State → Bus

end Sys2Proof.Config
end

