-- ==== Sys2Proof/WellFormed.lean ====
section
/-! DEFINITION. When the ports carry an instruction exactly as it stands. Shapes, registers and indices have no spare
value (30_encoding.md R63 to R65); only an integer operand can lie outside what the integer bus writes down. -/

namespace Sys2Proof

/-- The integers the 256-bit bus carries as they are (30_encoding.md R62: a non-negative `x` below `2^256`). Every
other integer reaches the unit as its residue, with the same result (R61). -/
abbrev onBus (n : Int) : Prop := 0 ≤ n ∧ n < 2 ^ 256

/-- The integer operand, if there is one, is a number of the integer bus. -/
def Instr.wellFormed : Instr → Bool
  | .fromint _ _ n => decide (onBus n)
  | .toint _ => true
  | .bitw _ => true
  | .inc _ _ => true
  | .skip _ _ offset => decide (onBus offset)
  | .numw32 _ => true
  | .numw64 _ => true
  | .getw32 _ _ => true
  | .getw64 _ _ => true

end Sys2Proof
end

