-- ==== Sys2Proof/Decode.lean ====
section
/-! DEFINITION. Shapes as numbers, the fields of a command word, the decoder (total, rejecting by name), the encoder,
and the opcode table as the spec prints it (30_encoding.md R55, R56, R61 to R68). -/

namespace Sys2Proof

/-- `A(s)` (00_scope.md R6). -/
def Shape.arity : Shape → Nat
  | .s2x32 => 2
  | .s4x32 => 4
  | .s2x64 => 2
  | .s4x64 => 4

/-- `W(s)` (00_scope.md R6). -/
def Shape.width : Shape → Nat
  | .s2x32 => 32
  | .s4x32 => 32
  | .s2x64 => 64
  | .s4x64 => 64

/-- `g` as a number of bits (00_scope.md R6). -/
def Granularity.bits : Granularity → Nat
  | .g32 => 32
  | .g64 => 64

/-- The shape tag `sh[1:0]` (30_encoding.md R63). -/
def Shape.tag : Shape → BitVec 2
  | .s2x32 => 0
  | .s4x32 => 1
  | .s2x64 => 2
  | .s4x64 => 3

/-- The shape a tag names: bit 0 selects the arity, bit 1 the native width (30_encoding.md R63). -/
def shapeOfTag (t : BitVec 2) : Shape :=
  match t.getLsbD 1, t.getLsbD 0 with
  | false, false => .s2x32
  | false, true => .s4x32
  | true, false => .s2x64
  | true, true => .s4x64

/-- The number of a register, as `rd` and `rs` hold it (30_encoding.md R65). -/
def Reg.num : Reg → BitVec 2
  | .v0 => 0
  | .v1 => 1
  | .v2 => 2
  | .v3 => 3

/-- The register a number names (30_encoding.md R65). -/
def regOfNum (n : BitVec 2) : Reg :=
  match n.getLsbD 1, n.getLsbD 0 with
  | false, false => .v0
  | false, true => .v1
  | true, false => .v2
  | true, true => .v3

/-- The bus image of an integer operand, `x mod 2^256` (30_encoding.md R61, R62). -/
def busImage (x : Int) : Bus := BitVec.ofInt 256 x

/-! ### The fields of a command word (30_encoding.md R55) -/

/-- `op = cmd[15:12]`. -/
def opField (w : CmdWord) : BitVec 4 := w.extractLsb' 12 4

/-- `rd = cmd[11:10]`. -/
def rdField (w : CmdWord) : BitVec 2 := w.extractLsb' 10 2

/-- `rs = cmd[9:8]`. -/
def rsField (w : CmdWord) : BitVec 2 := w.extractLsb' 8 2

/-- `imm8 = cmd[7:0]`. -/
def immField (w : CmdWord) : BitVec 8 := w.extractLsb' 0 8

/-- `imm8[7:2]`, the part of `imm8` above a shape tag. -/
def immHighField (w : CmdWord) : BitVec 6 := w.extractLsb' 2 6

/-- `imm8[1:0]`, the shape tag. -/
def tagField (w : CmdWord) : BitVec 2 := w.extractLsb' 0 2

/-! ### Formats (30_encoding.md R56) -/

/-- What a format does with `imm8`. -/
inductive ImmUse where
  | zero
  | tag
  | index
  deriving DecidableEq, Repr

/-- Which fields a format uses; a field it does not use must be zero (30_encoding.md R56, R68). -/
structure Format where
  rd : Bool
  rs : Bool
  imm : ImmUse
  deriving DecidableEq, Repr

def formatRI : Format := ⟨true, false, .tag⟩
def formatRR : Format := ⟨true, true, .zero⟩
def formatRRI : Format := ⟨true, true, .zero⟩
def formatR : Format := ⟨false, true, .zero⟩
def formatRX : Format := ⟨false, true, .index⟩
def formatQ : Format := ⟨false, false, .tag⟩

/-- Why a command word is illegal (30_encoding.md R67, R68). Every one raises IllegalCommand. -/
inductive Reject where
  /-- opcode 0x0 or 0xA to 0xF (R67) -/
  | reservedOpcode (op : BitVec 4)
  /-- a non-zero `rd` in a format that does not use it (R68) -/
  | rdNotZero
  /-- a non-zero `rs` in a format that does not use it (R68) -/
  | rsNotZero
  /-- a non-zero bit of `imm8` that the format does not use (R68) -/
  | immNotZero
  deriving DecidableEq, Repr

/-- The bits of `imm8` a format leaves unused are zero. -/
def immLegal : ImmUse → CmdWord → Bool
  | .zero, w => immField w == 0
  | .tag, w => immHighField w == 0
  | .index, _ => true

/-- The instruction, unless a field its format does not use is non-zero (30_encoding.md R68). -/
def checked (f : Format) (w : CmdWord) (i : Instr) : Except Reject Instr :=
  if !f.rd && rdField w != 0 then .error .rdNotZero
  else if !f.rs && rsField w != 0 then .error .rsNotZero
  else if !immLegal f.imm w then .error .immNotZero
  else .ok i

/-! ### The decoder (30_encoding.md R66) -/

/-- The instruction of a command word and the integer bus beside it, or the name of what makes the word illegal.
The operand of FROMINT and SKIP is the number on the bus (R61). -/
def decode (w : CmdWord) (bus : Bus) : Except Reject Instr :=
  let rd := regOfNum (rdField w)
  let rs := regOfNum (rsField w)
  let sh := shapeOfTag (tagField w)
  match (opField w).toNat with
  | 1 => checked formatRI w (.fromint rd sh bus.toNat)
  | 2 => checked formatR w (.toint rs)
  | 3 => checked formatQ w (.bitw sh)
  | 4 => checked formatRR w (.inc rd rs)
  | 5 => checked formatRRI w (.skip rd rs bus.toNat)
  | 6 => checked formatQ w (.numw32 sh)
  | 7 => checked formatQ w (.numw64 sh)
  | 8 => checked formatRX w (.getw32 rs (immField w))
  | 9 => checked formatRX w (.getw64 rs (immField w))
  | _ => .error (.reservedOpcode (opField w))

/-! ### The encoder (30_encoding.md R66, R71) -/

/-- `(op << 12) | (rd << 10) | (rs << 8) | imm8` (30_encoding.md R71), the fields being disjoint. -/
def packWord (op : BitVec 4) (rd rs : BitVec 2) (imm8 : BitVec 8) : CmdWord := op ++ rd ++ rs ++ imm8

/-- `000000 ‖ sh`, the `imm8` of the formats RI and Q (30_encoding.md R56). -/
def tagImm (sh : Shape) : BitVec 8 := (0 : BitVec 6) ++ sh.tag

/-- The command word of an instruction (30_encoding.md R66, R71). -/
def encodeWord : Instr → CmdWord
  | .fromint rd sh _ => packWord 1 rd.num 0 (tagImm sh)
  | .toint rs => packWord 2 0 rs.num 0
  | .bitw sh => packWord 3 0 0 (tagImm sh)
  | .inc rd rs => packWord 4 rd.num rs.num 0
  | .skip rd rs _ => packWord 5 rd.num rs.num 0
  | .numw32 sh => packWord 6 0 0 (tagImm sh)
  | .numw64 sh => packWord 7 0 0 (tagImm sh)
  | .getw32 rs idx => packWord 8 0 rs.num idx
  | .getw64 rs idx => packWord 9 0 rs.num idx

/-- What the integer bus carries beside an instruction's word (30_encoding.md R61); the seven commands that ignore the
bus are encoded with zeros on it, where the host may drive anything (R62). -/
def encodeBus : Instr → Bus
  | .fromint _ _ n => busImage n
  | .toint _ => 0
  | .bitw _ => 0
  | .inc _ _ => 0
  | .skip _ _ offset => busImage offset
  | .numw32 _ => 0
  | .numw64 _ => 0
  | .getw32 _ _ => 0
  | .getw64 _ _ => 0

/-- What the ports carry for an instruction: `cmd` and `cmd_int`. -/
def encode (i : Instr) : CmdWord × Bus := (encodeWord i, encodeBus i)

/-! ### The opcode table (30_encoding.md R66) -/

/-- A row of the opcode map: a word `w` is this command iff `w & mask == match`. -/
structure OpRow where
  mnemonic : String
  pattern : CmdWord
  mask : CmdWord
  deriving DecidableEq, Repr

/-- The row's condition on a word. -/
def OpRow.hits (r : OpRow) (w : CmdWord) : Bool := w &&& r.mask == r.pattern

/-- The nine rows, as the spec prints them. -/
def opcodeTable : List OpRow :=
  [⟨"FROMINT", 0x1000, 0xF3FC⟩, ⟨"TOINT", 0x2000, 0xFCFF⟩, ⟨"BITW", 0x3000, 0xFFFC⟩,
   ⟨"INC", 0x4000, 0xF0FF⟩, ⟨"SKIP", 0x5000, 0xF0FF⟩, ⟨"NUMW32", 0x6000, 0xFFFC⟩,
   ⟨"NUMW64", 0x7000, 0xFFFC⟩, ⟨"GETW32", 0x8000, 0xFC00⟩, ⟨"GETW64", 0x9000, 0xFC00⟩]

/-- The mnemonic of an instruction (30_encoding.md R66). -/
def Instr.mnemonic : Instr → String
  | .fromint _ _ _ => "FROMINT"
  | .toint _ => "TOINT"
  | .bitw _ => "BITW"
  | .inc _ _ => "INC"
  | .skip _ _ _ => "SKIP"
  | .numw32 _ => "NUMW32"
  | .numw64 _ => "NUMW64"
  | .getw32 _ _ => "GETW32"
  | .getw64 _ _ => "GETW64"

/-! ### A word as the opcode table numbers its bits -/

/-- The bits of a word above `nbits` cleared. -/
def tableBits (nbits w : Nat) : Nat := w % 2 ^ nbits

/-- The command word of such bits: bits 15..0. -/
def tableCmd (nbits w : Nat) : CmdWord := BitVec.ofNat 16 (tableBits nbits w)

/-- The integer operand of such bits: what stands above bit 15 (log entry 9). -/
def tableInt (nbits w : Nat) : Int := (tableBits nbits w >>> 16 : Nat)

/-- What the decoder reads from an instruction whose bits are `w`; none where it rejects them. -/
def decodeTableWord (nbits w : Nat) : Option Instr :=
  match decode (tableCmd nbits w) (busImage (tableInt nbits w)) with
  | .ok i => some i
  | .error _ => none

end Sys2Proof
end

