-- ==== Sys2Proof/Machine/Ops.lean ====
section
/-! DEFINITION. The named operations over the state: registers, responses, fault entry, reset (the only way out of the
halted state), accepting a command, idling. -/

namespace Sys2Proof.Machine

/-! ### Value registers (10_state.md R26 to R29) -/

/-- The content of a register. -/
def RegFile.read (v : RegFile) : Reg → RegContent
  | .v0 => v.v0
  | .v1 => v.v1
  | .v2 => v.v2
  | .v3 => v.v3

/-- A register replaced whole: validity, shape and tuple together (10_state.md R29). -/
def RegFile.write (v : RegFile) (r : Reg) (x : Value) : RegFile :=
  match r with
  | .v0 => { v with v0 := .valid x }
  | .v1 => { v with v1 := .valid x }
  | .v2 => { v with v2 := .valid x }
  | .v3 => { v with v3 := .valid x }

/-- `v[rd] <- x`. -/
def State.write (s : State) (rd : Reg) (x : Value) : State := { s with v := s.v.write rd x }

/-! ### The fault status register as a number (10_state.md R30) -/

/-- The code of a cause (60_exceptions.md R130). -/
def Cause.code : Cause → BitVec 3
  | .none => 0
  | .invalidIndex => 1
  | .illegalCommand => 2
  | .unwrittenRegister => 3

/-- The 20 bits of FSR: CMD in 19:4, CAUSE in 3:1, F in 0 (10_state.md R30). -/
def Fsr.bits (r : Fsr) : BitVec 20 := r.cmd ++ r.cause.code ++ BitVec.ofBool r.f

/-! ### Responses (30_encoding.md R59, R60) -/

/-- The code of a status (30_encoding.md R60). -/
def Status.code : Status → StatusCode
  | .ok => 0
  | .invalidIndex => 1
  | .illegalCommand => 2
  | .unwrittenRegister => 3
  | .halted => 4

/-- `respond(st, d)`: the command in flight ends with its one response (00_scope.md R12, 70_reset_and_hazards.md R161). -/
def respond (st : Status) (d : Bus) (s : State) : State :=
  { s with inflight := none, rsp := some ⟨st, d⟩, responses := s.responses ++ [⟨st, d⟩] }

/-! ### Taking a fault (60_exceptions.md R135, R137, R138) -/

/-- The three faults a command can raise (60_exceptions.md R130). -/
inductive FaultKind where
  | invalidIndex
  | illegalCommand
  | unwrittenRegister
  deriving DecidableEq, Repr

/-- What a fault leaves in `FSR.CAUSE`. -/
def FaultKind.cause : FaultKind → Cause
  | .invalidIndex => .invalidIndex
  | .illegalCommand => .illegalCommand
  | .unwrittenRegister => .unwrittenRegister

/-- The status of the faulting command's response. -/
def FaultKind.status : FaultKind → Status
  | .invalidIndex => .invalidIndex
  | .illegalCommand => .illegalCommand
  | .unwrittenRegister => .unwrittenRegister

/-- Fault entry, for a fault `k` raised by the command word `w` (60_exceptions.md R137): FSR records it, the response is
its status with data 0, no value register is written. -/
def raise (k : FaultKind) (w : CmdWord) (s : State) : State :=
  respond k.status 0 { s with fsr := ⟨true, k.cause, w⟩ }

/-- The first check of every command (60_exceptions.md R136, R139): a halted unit answers HALTED with data 0 and does
nothing else. -/
def unlessHalted (s : State) (body : Result) : Result :=
  if s.fsr.f then .next (respond .halted 0 s) else body

/-- A command word that is not one of the nine commands (60_exceptions.md R132). -/
def illegal (w : CmdWord) (s : State) : Result := unlessHalted s (.next (raise .illegalCommand w s))

/-! ### Reset (10_state.md R36, 70_reset_and_hazards.md R155, R157): the only return from a fault (60_exceptions.md R142) -/

/-- The unit at its reset values, whatever it was; a command in flight is abandoned without a response. What the host has
still to present, the responses it has seen and the counter of the free values are not the unit's. -/
def resetUnit (s : State) : State :=
  { s with v := RegFile.reset, fsr := Fsr.reset, inflight := none, rsp := none }

/-! ### Between commands (70_reset_and_hazards.md R159 to R161) -/

/-- The counter of the free values advances at every step and every clock edge (log entry 3). -/
def tick (s : State) : State := { s with fresh := s.fresh + 1 }

/-- The unit idles: a response shown before is no longer shown, all other state is kept (60_exceptions.md R148,
70_reset_and_hazards.md R161). -/
def idle (s : State) : State := { s with rsp := none }

/-- The unit takes a command: it is busy with it until its response (70_reset_and_hazards.md R159, R160). -/
def accept (c : Command) (s : State) : State :=
  { s with inflight := some ⟨c, Config.extraLatency s c⟩, rsp := none }

end Sys2Proof.Machine
end

