-- ==== Sys2Proof/Machine/Convert.lean ====
section
/-! DEFINITION. FixedWidthInteger: shape of a value, toInteger, fromInteger, bitWidth (40_fixedwidth.md R80 to R85). The
formulas are what the commands use; the packer and unpacker datapaths (R81, R83) stand beside them. -/

namespace Sys2Proof.Machine

/-- The elements, most significant first (10_state.md R22). -/
def Tuple.elems {w : Nat} : Tuple w → List (NativeWord w)
  | .two e0 e1 => [e0, e1]
  | .four e0 e1 e2 e3 => [e0, e1, e2, e3]

/-- The shape that travels with a value (10_state.md R25). -/
def Value.shape : Value → Shape
  | .w32 (.two _ _) => .s2x32
  | .w32 (.four _ _ _ _) => .s4x32
  | .w64 (.two _ _) => .s2x64
  | .w64 (.four _ _ _ _) => .s4x64

/-- The elements of a value as numbers, most significant first: `e[i]` of 00_scope.md R10. -/
def Value.elemNats : Value → List Nat
  | .w32 t => t.elems.map BitVec.toNat
  | .w64 t => t.elems.map BitVec.toNat

/-- `bitWidth(s) = W(s) × A(s)` (40_fixedwidth.md R85). -/
def bitWidth (s : Shape) : Nat := s.width * s.arity

/-- `bitWidth` of a bare native word, a property of its type with no command and no shape (40_fixedwidth.md R85,
90_conflicts.md C1). -/
def nativeBitWidth {w : Nat} (_ : NativeWord w) : Nat := w

/-! ### toInteger -/

/-- `Σ_i element[i] << (width × (arity-1-i))` over the elements, most significant first (40_fixedwidth.md R80). -/
def shiftedSum {w : Nat} : List (NativeWord w) → Nat
  | [] => 0
  | e :: es => (e.toNat <<< (w * es.length)) + shiftedSum es

/-- `toInteger(t)` (40_fixedwidth.md R80). -/
def Value.toInteger : Value → Nat
  | .w32 t => shiftedSum t.elems
  | .w64 t => shiftedSum t.elems

/-- The packer: the elements side by side, `e[0] ‖ … ‖ e[A−1]` (40_fixedwidth.md R81). -/
def Value.packed : (x : Value) → BitVec (bitWidth x.shape)
  | .w32 (.two e0 e1) => e0 ++ e1
  | .w32 (.four e0 e1 e2 e3) => e0 ++ e1 ++ e2 ++ e3
  | .w64 (.two e0 e1) => e0 ++ e1
  | .w64 (.four e0 e1 e2 e3) => e0 ++ e1 ++ e2 ++ e3

/-! ### fromInteger -/

/-- Element `i` of an integer unpacked into `a` words of `w` bits: `n' = n mod 2^(w×a)`, then
`(n' >> (w×(a−1−i))) mod 2^w` (40_fixedwidth.md R82; reduce first, 90_conflicts.md C5). -/
def digit (w a i : Nat) (n : Int) : NativeWord w :=
  BitVec.ofNat w ((n % 2 ^ (w * a)).toNat >>> (w * (a - 1 - i)))

/-- An integer unpacked into two words. -/
def unpackTwo (w : Nat) (n : Int) : Tuple w := .two (digit w 2 0 n) (digit w 2 1 n)

/-- An integer unpacked into four words. -/
def unpackFour (w : Nat) (n : Int) : Tuple w :=
  .four (digit w 4 0 n) (digit w 4 1 n) (digit w 4 2 n) (digit w 4 3 n)

/-- `fromInteger(s, n)` (40_fixedwidth.md R82). -/
def fromInteger (s : Shape) (n : Int) : Value :=
  match s with
  | .s2x32 => .w32 (unpackTwo 32 n)
  | .s4x32 => .w32 (unpackFour 32 n)
  | .s2x64 => .w64 (unpackTwo 64 n)
  | .s4x64 => .w64 (unpackFour 64 n)

/-- The unpacker: fixed slices of the integer bus, selected by the shape (the table of 40_fixedwidth.md R83). -/
def unpackBus (s : Shape) (b : Bus) : Value :=
  match s with
  | .s2x32 => .w32 (.two (b.extractLsb' 32 32) (b.extractLsb' 0 32))
  | .s4x32 =>
    .w32 (.four (b.extractLsb' 96 32) (b.extractLsb' 64 32) (b.extractLsb' 32 32) (b.extractLsb' 0 32))
  | .s2x64 => .w64 (.two (b.extractLsb' 64 64) (b.extractLsb' 0 64))
  | .s4x64 =>
    .w64 (.four (b.extractLsb' 192 64) (b.extractLsb' 128 64) (b.extractLsb' 64 64) (b.extractLsb' 0 64))

/-- `zero(s)` (00_scope.md R10). -/
def zeroOf : Shape → Value
  | .s2x32 => .w32 (.two 0 0)
  | .s4x32 => .w32 (.four 0 0 0 0)
  | .s2x64 => .w64 (.two 0 0)
  | .s4x64 => .w64 (.four 0 0 0 0)

/-- The tuple with every element at its native maximum `2^w − 1`. -/
def onesTwo (w : Nat) : Tuple w := .two (BitVec.allOnes w) (BitVec.allOnes w)

/-- The same with four elements. -/
def onesFour (w : Nat) : Tuple w :=
  .four (BitVec.allOnes w) (BitVec.allOnes w) (BitVec.allOnes w) (BitVec.allOnes w)

/-- `ones(s)` (00_scope.md R10). -/
def onesOf : Shape → Value
  | .s2x32 => .w32 (onesTwo 32)
  | .s4x32 => .w32 (onesFour 32)
  | .s2x64 => .w64 (onesTwo 64)
  | .s4x64 => .w64 (onesFour 64)

end Sys2Proof.Machine
end

