-- ==== Sys2Proof/Machine/Flags.lean ====
section
/-! DEFINITION. The unit has no flags and no condition codes (10_state.md R33). What it computes of that kind is the
carry one element adder passes to the next; the last one is discarded. -/

namespace Sys2Proof.Machine

/-- What an element adder gives: the sum element and the carry out. -/
structure AddOut (w : Nat) where
  sum : NativeWord w
  carry : Bool
  deriving DecidableEq, Repr

/-- The `(w+1)`-bit number an element adder forms (41_counter.md R101). -/
def exactSum {w : Nat} (a b : NativeWord w) (c : Bool) : Nat := a.toNat + b.toNat + c.toNat

/-- One stage of the carry chain: `sum mod 2^w` and `sum >> w` (41_counter.md R101). -/
def addElement {w : Nat} (a b : NativeWord w) (c : Bool) : AddOut w :=
  { sum := BitVec.ofNat w (exactSum a b c), carry := exactSum a b c >>> w == 1 }

end Sys2Proof.Machine
end

