-- ==== Sys2Proof/Machine/Adder.lean ====
section
/-! DEFINITION. Counter: increment and skip (41_counter.md R95 to R100), and the carry chains that realise them
(R101, R102). -/

namespace Sys2Proof.Machine

/-- The element is at its native maximum `2^w − 1` (41_counter.md R95). -/
def atMax {w : Nat} (e : NativeWord w) : Bool := e == BitVec.allOnes w

/-- `increment` on a tuple (41_counter.md R95): the least significant element below its maximum is incremented, the
elements after it become 0, the elements before it are unchanged. -/
def Tuple.increment {w : Nat} : Tuple w → Tuple w
  | .two e0 e1 =>
    if !atMax e1 then .two e0 (e1 + 1)
    else if !atMax e0 then .two (e0 + 1) 0
    else .two 0 0
  | .four e0 e1 e2 e3 =>
    if !atMax e3 then .four e0 e1 e2 (e3 + 1)
    else if !atMax e2 then .four e0 e1 (e2 + 1) 0
    else if !atMax e1 then .four e0 (e1 + 1) 0 0
    else if !atMax e0 then .four (e0 + 1) 0 0 0
    else .four 0 0 0 0

/-- `increment(t)` (41_counter.md R95). -/
def increment : Value → Value
  | .w32 t => .w32 t.increment
  | .w64 t => .w64 t.increment

/-- `skip(offset, t) = fromInteger(s, toInteger(t) + offset)` (41_counter.md R97). -/
def skip (offset : Int) (x : Value) : Value := fromInteger x.shape (x.toInteger + offset)

/-! ### The carry chains -/

/-- The carry-chain adder over the elements of a tuple and of a second operand given element by element, with a carry
into the least significant element; the carry out of the most significant is not used (41_counter.md R101). -/
def Tuple.chain {w : Nat} (o : Nat → NativeWord w) (c : Bool) : Tuple w → Tuple w
  | .two e0 e1 =>
    let a1 := addElement e1 (o 1) c
    let a0 := addElement e0 (o 0) a1.carry
    .two a0.sum a1.sum
  | .four e0 e1 e2 e3 =>
    let a3 := addElement e3 (o 3) c
    let a2 := addElement e2 (o 2) a3.carry
    let a1 := addElement e1 (o 1) a2.carry
    let a0 := addElement e0 (o 0) a1.carry
    .four a0.sum a1.sum a2.sum a3.sum

/-- The arity of a tuple. -/
def Tuple.arity {w : Nat} : Tuple w → Nat
  | .two _ _ => 2
  | .four _ _ _ _ => 4

/-- The adder for `skip`: the second operand is the unpacked offset, the carry in is 0 (41_counter.md R101). -/
def skipChain (offset : Int) : Value → Value
  | .w32 t => .w32 (t.chain (fun i => digit 32 t.arity i offset) false)
  | .w64 t => .w64 (t.chain (fun i => digit 64 t.arity i offset) false)

/-- The adder for `increment`: the second operand is zero, the carry in is 1 (41_counter.md R102). -/
def incrementChain : Value → Value
  | .w32 t => .w32 (t.chain (fun _ => 0) true)
  | .w64 t => .w64 (t.chain (fun _ => 0) true)

end Sys2Proof.Machine
end

