-- ==== Sys2Proof/Machine/Operands.lean ====
section
/-! DEFINITION. The operand forms of the commands: a source register that is read whole or faults, a response that
carries a number (10_state.md R28, R29; 30_encoding.md R59). -/

namespace Sys2Proof.Machine

/-- `(s, t) <- v[rs]`: the value of the source register, or the fault UnwrittenRegister raised by the command word `w`
(10_state.md R28, 60_exceptions.md R133). -/
def withSource (rs : Reg) (w : CmdWord) (s : State) (body : Value → Result) : Result :=
  match s.v.read rs with
  | .valid x => body x
  | .invalid => .next (raise .unwrittenRegister w s)

/-- `respond(OK, zext_256(n))` for a number (30_encoding.md R59). -/
def answer (n : Nat) (s : State) : Result := .next (respond .ok (BitVec.ofNat 256 n) s)

/-- `v[rd] <- x; respond(OK, 0)` (30_encoding.md R59). -/
def store (rd : Reg) (x : Value) (s : State) : Result := .next (respond .ok 0 (s.write rd x))

/-- The shape of a command that reads a register, computes, and writes a register: the source is read whole before the
destination is written (70_reset_and_hazards.md R164). -/
def compute (rd rs : Reg) (w : CmdWord) (f : Value → Value) (s : State) : Result :=
  unlessHalted s (withSource rs w s fun x => store rd (f x) s)

/-- The shape of a command that answers a number of a shape: no register is read. -/
def query (n : Nat) (s : State) : Result := unlessHalted s (answer n s)

/-- The shape of a command that reads one word of a register through a view; an index out of bounds raises InvalidIndex
(42_wordview.md R117, 60_exceptions.md R131), checked after the register (60_exceptions.md R136). -/
def readView {g : Nat} (rs : Reg) (w : CmdWord) (word : Value → Option (BitVec g)) (s : State) : Result :=
  unlessHalted s (withSource rs w s fun x =>
    match word x with
    | some d => answer d.toNat s
    | none => .next (raise .invalidIndex w s))

end Sys2Proof.Machine
end

