-- ==== Sys2Proof/Machine/Counter.lean ====
section
/-! DEFINITION. The Counter commands: INC, SKIP (41_counter.md R103, R104). -/

namespace Sys2Proof.Machine

/-- INC (41_counter.md R103). -/
def execInc (rd rs : Reg) (s : State) : Result := compute rd rs (encodeWord (.inc rd rs)) increment s

/-- SKIP (41_counter.md R104). -/
def execSkip (rd rs : Reg) (offset : Int) (s : State) : Result :=
  compute rd rs (encodeWord (.skip rd rs offset)) (skip offset) s

end Sys2Proof.Machine
end

