-- ==== Sys2Proof/Machine/FixedWidth.lean ====
section
/-! DEFINITION. The FixedWidthInteger commands: FROMINT, TOINT, BITW (40_fixedwidth.md R86 to R88). -/

namespace Sys2Proof.Machine

/-- FROMINT (40_fixedwidth.md R86). -/
def execFromint (rd : Reg) (sh : Shape) (n : Int) (s : State) : Result :=
  unlessHalted s (store rd (fromInteger sh n) s)

/-- TOINT (40_fixedwidth.md R87). -/
def execToint (rs : Reg) (s : State) : Result :=
  unlessHalted s (withSource rs (encodeWord (.toint rs)) s fun x => answer x.toInteger s)

/-- BITW (40_fixedwidth.md R88). -/
def execBitw (sh : Shape) (s : State) : Result := query (bitWidth sh) s

end Sys2Proof.Machine
end

