-- ==== Sys2Proof/Machine/View.lean ====
section
/-! DEFINITION. WordView: numWords, getWord by its formula (42_wordview.md R112) and by the word multiplexer, which is
the hardware (R114, R115). `none` is the outcome InvalidIndex (R117, 60_exceptions.md R140). -/

namespace Sys2Proof.Machine

/-- `numWords(s, g) = bitWidth(s) / g` (42_wordview.md R110). -/
def numWords (s : Shape) (g : Granularity) : Nat := bitWidth s / g.bits

/-- `getWord(g, index, t)` by its formula, for any integer index (42_wordview.md R112). -/
def getWord (g : Granularity) (index : Int) (x : Value) : Option Nat :=
  let nw := numWords x.shape g
  if index < 0 ∨ (nw : Int) ≤ index then none
  else some ((x.toInteger >>> (g.bits * (nw - 1 - index.toNat))) % 2 ^ g.bits)

/-- The half-select of the 64-to-32 rows: the high half at an even index, the low half at an odd one
(42_wordview.md R113, R114). -/
def halfSelect (k : Nat) (e : NativeWord 64) : BitVec 32 :=
  if k % 2 = 0 then e.extractLsb' 32 32 else e.extractLsb' 0 32

/-- The multiplexer at granularity 32 (42_wordview.md R114). -/
def muxWord32 (k : Nat) : Value → Option (BitVec 32)
  | .w32 t => t.elems[k]?
  | .w64 t => t.elems[k / 2]?.map (halfSelect k)

/-- The multiplexer at granularity 64: an element, or two consecutive ones, the first in the upper half
(42_wordview.md R113, R114). -/
def muxWord64 (k : Nat) : Value → Option (BitVec 64)
  | .w64 t => t.elems[k]?
  | .w32 t =>
    match t.elems[2 * k]?, t.elems[2 * k + 1]? with
    | some a, some b => some (a ++ b)
    | _, _ => none

/-- The multiplexer at either granularity, its word as a number. -/
def muxWord (g : Granularity) (k : Nat) (x : Value) : Option Nat :=
  match g with
  | .g32 => (muxWord32 k x).map BitVec.toNat
  | .g64 => (muxWord64 k x).map BitVec.toNat

/-- The words of a view in index order, by the formula (42_wordview.md R112, R116). -/
def viewWords (g : Granularity) (x : Value) : List Nat :=
  (List.range (numWords x.shape g)).filterMap fun (k : Nat) => getWord g (k : Int) x

/-- A list of words read back as one big-endian bit string (42_wordview.md R116). -/
def joinWords (g : Granularity) (ws : List Nat) : Nat :=
  ws.foldl (fun n w => (n <<< g.bits) ||| w) 0

end Sys2Proof.Machine
end

