-- ==== Sys2Proof/Machine/WordView.lean ====
section
/-! DEFINITION. The WordView commands: NUMW32, NUMW64, GETW32, GETW64 (42_wordview.md R119 to R123). -/

namespace Sys2Proof.Machine

/-- NUMW32 (42_wordview.md R119). -/
def execNumw32 (sh : Shape) (s : State) : Result := query (numWords sh .g32) s

/-- NUMW64 (42_wordview.md R120). -/
def execNumw64 (sh : Shape) (s : State) : Result := query (numWords sh .g64) s

/-- GETW32 (42_wordview.md R121). All eight bits of the index are compared (R123). -/
def execGetw32 (rs : Reg) (idx : Idx) (s : State) : Result :=
  readView rs (encodeWord (.getw32 rs idx)) (muxWord32 idx.toNat) s

/-- GETW64 (42_wordview.md R122). All eight bits of the index are compared (R123). -/
def execGetw64 (rs : Reg) (idx : Idx) (s : State) : Result :=
  readView rs (encodeWord (.getw64 rs idx)) (muxWord64 idx.toNat) s

end Sys2Proof.Machine
end

