-- ==== Sys2Proof/Machine/Dispatch.lean ====
section
/-! DEFINITION. One arm per command: the meaning of an instruction on a state. -/

namespace Sys2Proof.Machine

def exec (i : Instr) (s : State) : Host.Outcome State Fault Refusal :=
  match i with
  | .fromint rd sh n => Sys2Proof.Machine.execFromint rd sh n s
  | .toint rs => Sys2Proof.Machine.execToint rs s
  | .bitw sh => Sys2Proof.Machine.execBitw sh s
  | .inc rd rs => Sys2Proof.Machine.execInc rd rs s
  | .skip rd rs offset => Sys2Proof.Machine.execSkip rd rs offset s
  | .numw32 sh => Sys2Proof.Machine.execNumw32 sh s
  | .numw64 sh => Sys2Proof.Machine.execNumw64 sh s
  | .getw32 rs idx => Sys2Proof.Machine.execGetw32 rs idx s
  | .getw64 rs idx => Sys2Proof.Machine.execGetw64 rs idx s

end Sys2Proof.Machine
end

