-- ==== Sys2Proof/Machine/Transact.lean ====
section
/-! DEFINITION. One transaction: the unit takes what the host does next and carries it through (00_scope.md R15,
30_encoding.md R58). Step.lean only calls it. -/

namespace Sys2Proof.Machine

/-- A command carried out: the meaning of the instruction its word decodes to, or IllegalCommand
(30_encoding.md R58, R67, R68). -/
def execute (c : Command) (s : State) : Result :=
  match decode c.cmd c.cmdInt with
  | .ok i => exec i s
  | .error _ => illegal c.cmd s

/-- What the ports carry when the host presents a word and an integer (30_encoding.md R61). -/
def presented (cmd : CmdWord) (int : Int) : Command := ⟨cmd, busImage int⟩

/-- What the host does next, carried through: a command from its acceptance to its response, or a reset. -/
def perform (e : HostEvent) (s : State) : Result :=
  match e with
  | .command cmd int => execute (presented cmd int) (accept (presented cmd int) s)
  | .reset => .next (resetUnit s)

/-- One step of the unit at transaction level: a command already in flight is finished; otherwise the host's next event
is carried through; with none left the unit idles (60_exceptions.md R148). -/
def transact (s : State) : Result :=
  match s.inflight with
  | some p => execute p.command s
  | none =>
    match s.host with
    | [] => .next (idle s)
    | e :: es => perform e { s with host := es }

/-- The state with the host about to present an instruction given by its bits, as the opcode table numbers them. -/
def presentWord (s : State) (nbits w : Nat) : State :=
  { s with inflight := none, host := .command (tableCmd nbits w) (tableInt nbits w) :: s.host }

end Sys2Proof.Machine
end

