-- ==== Sys2Proof/Machine/Step.lean ====
section
/-! DEFINITION. The step of the unit: one command (00_scope.md R15). -/

namespace Sys2Proof.Machine

/-- One step: one transaction, with the counter of the free values advanced. -/
def step (s : State) : Host.Outcome State Fault Refusal := transact (tick s)

/-- The state whose next step fetches and runs the instruction with these bits: the unit fetches nothing, it takes what
the host presents next (10_state.md R32). -/
def State.withFetchWord (s : State) (nbits w : Nat) : State := presentWord s nbits w

end Sys2Proof.Machine
end

