-- ==== Sys2Proof/Machine/Asm.lean ====
section
/-! DEFINITION. The assembler: one line of text to a command, the four pseudo-instructions, and the listing format
(30_encoding.md R70 to R75). What R70 leaves open of the lexical detail is log entry 11. -/

namespace Sys2Proof.Machine

/-! ### Pseudo-instructions (30_encoding.md R72 to R74) -/

/-- `MOV vd, vs` is `SKIP vd, vs, #0` (R72). -/
def pseudoMov (rd rs : Reg) : Instr := .skip rd rs 0

/-- `DEC vd, vs` is `SKIP vd, vs, #-1` (R73). -/
def pseudoDec (rd rs : Reg) : Instr := .skip rd rs (-1)

/-- `ZERO vd, Sshape` is `FROMINT vd, Sshape, #0` (R74). -/
def pseudoZero (rd : Reg) (sh : Shape) : Instr := .fromint rd sh 0

/-- `ONES vd, Sshape` is `FROMINT vd, Sshape, #-1` (R74). -/
def pseudoOnes (rd : Reg) (sh : Shape) : Instr := .fromint rd sh (-1)

/-! ### Reading a line (30_encoding.md R70, R71) -/

/-- What an operand is written as: the four forms have four different first characters. -/
inductive AsmOperand where
  | reg (r : Reg)
  | shape (s : Shape)
  | int (n : Int)
  | index (k : Idx)
  deriving DecidableEq, Repr

/-- What a line holds. -/
inductive AsmLine where
  /-- nothing but spaces and a comment -/
  | blank
  | command (i : Instr)
  /-- not a line of the assembler's syntax -/
  | malformed
  deriving DecidableEq, Repr

/-- The text before a comment. -/
def stripComment (l : List Char) : List Char := l.takeWhile (· != ';')

def isBlank (c : Char) : Bool := c == ' ' || c == '\t'

def trimBlanks (l : List Char) : List Char := ((l.dropWhile isBlank).reverse.dropWhile isBlank).reverse

/-- A text cut at its commas. -/
def cutCommas : List Char → List (List Char)
  | [] => [[]]
  | c :: cs =>
    if c == ',' then [] :: cutCommas cs
    else
      match cutCommas cs with
      | [] => [[c]]
      | p :: ps => (c :: p) :: ps

/-- The value of a character as a digit below `base`. -/
def digitValue (base : Nat) (c : Char) : Option Nat :=
  let n := c.toNat
  let v := if 48 ≤ n ∧ n ≤ 57 then n - 48 else if 65 ≤ n ∧ n ≤ 70 then n - 55 else if 97 ≤ n ∧ n ≤ 102 then n - 87 else 16
  if v < base then some v else none

/-- The digits of a literal, an underscore standing only between two digits. -/
def readDigits (base acc : Nat) (afterDigit : Bool) : List Char → Option Nat
  | [] => if afterDigit then some acc else none
  | c :: cs =>
    if c == '_' then if afterDigit then readDigits base acc false cs else none
    else
      match digitValue base c with
      | some v => readDigits base (acc * base + v) true cs
      | none => none

/-- A decimal or hexadecimal literal. -/
def readMagnitude : List Char → Option Nat
  | '0' :: 'x' :: cs => readDigits 16 0 false cs
  | cs => readDigits 10 0 false cs

/-- The literal after `#`, with its sign. -/
def readInteger : List Char → Option Int
  | '-' :: cs => (readMagnitude cs).map fun n => -(n : Int)
  | cs => (readMagnitude cs).map fun n => (n : Int)

/-- An index: an unsigned decimal literal 0 to 255. -/
def readIndex (l : List Char) : Option Idx :=
  if l.contains '_' then none
  else
    match readDigits 10 0 false l with
    | some n => if n < 256 then some (BitVec.ofNat 8 n) else none
    | none => none

def readRegister : List Char → Option Reg
  | ['0'] => some .v0
  | ['1'] => some .v1
  | ['2'] => some .v2
  | ['3'] => some .v3
  | _ => none

def readShape : List Char → Option Shape
  | ['2', 'x', '3', '2'] => some .s2x32
  | ['4', 'x', '3', '2'] => some .s4x32
  | ['2', 'x', '6', '4'] => some .s2x64
  | ['4', 'x', '6', '4'] => some .s4x64
  | _ => none

def readOperand : List Char → Option AsmOperand
  | 'v' :: cs => (readRegister cs).map .reg
  | 'S' :: cs => (readShape cs).map .shape
  | '#' :: cs => (readInteger cs).map .int
  | cs => (readIndex cs).map .index

/-- Every operand of a line, or none if one of them is malformed. -/
def readOperands : List (List Char) → Option (List AsmOperand)
  | [] => some []
  | l :: ls =>
    match readOperand (trimBlanks l), readOperands ls with
    | some o, some os => some (o :: os)
    | _, _ => none

/-- The thirteen words a line can begin with: the nine commands and the four pseudo-instructions. -/
inductive AsmName where
  | fromint | toint | bitw | inc | skip | numw32 | numw64 | getw32 | getw64 | mov | dec | zero | ones
  deriving DecidableEq, Repr

def asmNames : List (String × AsmName) :=
  [("FROMINT", .fromint), ("TOINT", .toint), ("BITW", .bitw), ("INC", .inc), ("SKIP", .skip), ("NUMW32", .numw32),
   ("NUMW64", .numw64), ("GETW32", .getw32), ("GETW64", .getw64), ("MOV", .mov), ("DEC", .dec), ("ZERO", .zero),
   ("ONES", .ones)]

def readName (l : List Char) : Option AsmName :=
  (asmNames.find? fun p => p.1.toList == l).map Prod.snd

/-- The command of a name and its operands, destination first (30_encoding.md R70, R71). -/
def asmInstr : AsmName → List AsmOperand → Option Instr
  | .fromint, [.reg d, .shape s, .int n] => some (.fromint d s n)
  | .toint, [.reg s] => some (.toint s)
  | .bitw, [.shape s] => some (.bitw s)
  | .inc, [.reg d, .reg s] => some (.inc d s)
  | .skip, [.reg d, .reg s, .int n] => some (.skip d s n)
  | .numw32, [.shape s] => some (.numw32 s)
  | .numw64, [.shape s] => some (.numw64 s)
  | .getw32, [.reg s, .index k] => some (.getw32 s k)
  | .getw64, [.reg s, .index k] => some (.getw64 s k)
  | .mov, [.reg d, .reg s] => some (pseudoMov d s)
  | .dec, [.reg d, .reg s] => some (pseudoDec d s)
  | .zero, [.reg d, .shape s] => some (pseudoZero d s)
  | .ones, [.reg d, .shape s] => some (pseudoOnes d s)
  | _, _ => none

/-- One line of assembler text. -/
def assemble (line : List Char) : AsmLine :=
  match trimBlanks (stripComment line) with
  | [] => .blank
  | text =>
    let name := text.takeWhile (fun c => !isBlank c)
    let rest := text.dropWhile (fun c => !isBlank c)
    match readName name, readOperands (cutCommas rest) with
    | some n, some os =>
      match asmInstr n os with
      | some i => .command i
      | none => .malformed
    | _, _ => .malformed

/-! ### Listings (30_encoding.md R75) -/

/-- One hexadecimal digit, upper case. -/
def hexDigit (n : Nat) : Char := if n < 10 then Char.ofNat (48 + n) else Char.ofNat (55 + n)

/-- The `k` lowest hexadecimal digits of a number, the highest of them first. -/
def hexDigits : Nat → Nat → List Char
  | 0, _ => []
  | k + 1, n => hexDigits k (n / 16) ++ [hexDigit (n % 16)]

/-- A number up to 256 bits in hexadecimal, without leading zeros. -/
def hexNumber (n : Nat) : List Char :=
  match (hexDigits 64 n).dropWhile (· == '0') with
  | [] => ['0', 'x', '0']
  | ds => '0' :: 'x' :: ds

/-- The integer bus of a command in a listing, or `-` when the command ignores it. -/
def listBus : Instr → List Char
  | .fromint _ _ n => hexNumber (busImage n).toNat
  | .skip _ _ offset => hexNumber (busImage offset).toNat
  | .toint _ => ['-']
  | .bitw _ => ['-']
  | .inc _ _ => ['-']
  | .numw32 _ => ['-']
  | .numw64 _ => ['-']
  | .getw32 _ _ => ['-']
  | .getw64 _ _ => ['-']

/-- `word / integer` (30_encoding.md R75). -/
def listCommand (i : Instr) : List Char :=
  ['0', 'x'] ++ hexDigits 4 (encodeWord i).toNat ++ [' ', '/', ' '] ++ listBus i

/-- The name of a status (30_encoding.md R60). -/
def Status.name : Status → List Char
  | .ok => "OK".toList
  | .invalidIndex => "INVALID_INDEX".toList
  | .illegalCommand => "ILLEGAL_COMMAND".toList
  | .unwrittenRegister => "UNWRITTEN_REGISTER".toList
  | .halted => "HALTED".toList

/-- `STATUS data` (30_encoding.md R75). -/
def listResponse (r : Response) : List Char := r.status.name ++ [' '] ++ hexNumber r.data.toNat

end Sys2Proof.Machine
end

