-- ==== Sys2Proof/Machine/Port.lean ====
section
/-! DEFINITION. The unit at its pins, one clock edge at a time (30_encoding.md R57; 70_reset_and_hazards.md R155 to R161):
synchronous reset, acceptance, one command in flight, latency, the one-cycle response. -/

namespace Sys2Proof.Machine

/-- The inputs at a rising edge of `clk` (30_encoding.md R57). -/
structure PinIn where
  rst : Bool
  cmdValid : Bool
  cmd : CmdWord
  cmdInt : Bus
  deriving DecidableEq, Repr

/-- The outputs in a cycle (30_encoding.md R57). -/
structure PinOut where
  cmdReady : Bool
  rspValid : Bool
  rspStatus : StatusCode
  rspData : Bus
  fltValid : Bool
  fltCause : BitVec 3
  fltCmd : CmdWord
  deriving DecidableEq, Repr

/-- `busy`: a command has been accepted and its response not yet issued (10_state.md R35). -/
def State.busy (s : State) : Bool := s.inflight.isSome

/-- `cmd_ready`: not busy, and not while `rst` is 1 (70_reset_and_hazards.md R157, R160). -/
def cmdReady (rst : Bool) (s : State) : Bool := !rst && !s.busy

/-- The output pins in a cycle. `rsp_status` and `rsp_data` are unspecified while `rsp_valid` is 0
(70_reset_and_hazards.md R161); the `flt_` pins show FSR continuously (10_state.md R31). -/
def pins (rst : Bool) (s : State) : PinOut :=
  { cmdReady := cmdReady rst s
    rspValid := s.rsp.isSome
    rspStatus := match s.rsp with
      | some r => r.status.code
      | none => Config.idleStatus s
    rspData := match s.rsp with
      | some r => r.data
      | none => Config.idleData s
    fltValid := s.fsr.f
    fltCause := s.fsr.cause.code
    fltCmd := s.fsr.cmd }

/-- A command in flight at an edge: its last waiting cycle over, it is carried out and its response cycle starts;
otherwise it waits (70_reset_and_hazards.md R160, R161). -/
def advance (p : InFlight) (s : State) : Result :=
  match p.wait with
  | 0 => execute p.command s
  | n + 1 => .next { s with inflight := some ⟨p.command, n⟩, rsp := none }

/-- What the unit does at an edge with these inputs. -/
def clocked (i : PinIn) (s : State) : Result :=
  if i.rst then .next (resetUnit s)
  else
    match s.inflight with
    | some p => advance p s
    | none => if i.cmdValid then .next (accept ⟨i.cmd, i.cmdInt⟩ s) else .next (idle s)

/-- One rising edge of `clk`, with the counter of the free values advanced. -/
def edge (i : PinIn) (s : State) : Result := clocked i (tick s)

/-- A sequence of rising edges. -/
def edges : List PinIn → State → Result
  | [], s => .next s
  | i :: is, s =>
    match edge i s with
    | .next t => edges is t
    | .fault r => .fault r
    | .refused r => .refused r

/-- The inputs with which the host presents a command. -/
def presenting (c : Command) : PinIn := ⟨false, true, c.cmd, c.cmdInt⟩

/-- `LAT` of a command the unit accepts at its next edge (70_reset_and_hazards.md R167). -/
def latency (c : Command) (s : State) : Nat := Config.extraLatency (tick s) c + 1

end Sys2Proof.Machine
end

