-- ==== Sys2Proof/Safety.lean ====
section
/-! DEFINITION. The terms claims use: good states, the invariant, what a response and a frame are, which registers an
instruction names, and the priority of the checks (60_exceptions.md R136) written from the command word alone. -/

namespace Sys2Proof

open Sys2Proof.Machine

/-- The safety predicate (60_exceptions.md R139: a halted state is not a good final state of a run). -/
abbrev Safe (s : State) : Prop := s.fsr.f = false

/-- FSR holds a legal combination of its fields (10_state.md R30): CAUSE is 0 exactly when F is 0, and without a fault
since reset CMD is 0. -/
abbrev FsrLegal (r : Fsr) : Prop := (r.f = false ↔ r.cause = .none) ∧ (r.f = false → r.cmd = 0)

/-- The data of a response is 0 unless its status is OK (30_encoding.md R59). -/
abbrev ResponseLegal (r : Response) : Prop := r.status ≠ .ok → r.data = 0

/-- The invariant: FSR is legal, every response issued is legal, a response shown is the last of those issued, and none is
shown while a command is in flight (30_encoding.md R57, 70_reset_and_hazards.md R160, R161). -/
structure UnitInv (s : State) : Prop where
  fsr : FsrLegal s.fsr
  responses : ∀ r ∈ s.responses, ResponseLegal r
  shown : ∀ r, s.rsp = some r → s.responses.getLast? = some r
  quiet : s.inflight ≠ none → s.rsp = none

/-- Between `s` and `t` exactly one response was issued, `st` with data `d`; it is the one shown, and the unit is no
longer busy. What the host has still to present is untouched. -/
abbrev Answered (st : Status) (d : Bus) (s t : State) : Prop :=
  t.rsp = some ⟨st, d⟩ ∧ t.responses = s.responses ++ [⟨st, d⟩] ∧ t.inflight = none ∧ t.host = s.host ∧
    t.fresh = s.fresh

/-- Every value register but `rd` is as before. -/
abbrev OthersKept (rd : Reg) (s t : State) : Prop := ∀ r, r ≠ rd → t.v.read r = s.v.read r

/-- The unit's own state is that of reset (10_state.md R36): registers, FSR, no command in flight, no response. -/
abbrev UnitReset (s : State) : Prop :=
  (∀ r, s.v.read r = .invalid) ∧ s.fsr.bits = 0 ∧ s.busy = false ∧ s.rsp = none

/-- The source register of an instruction (10_state.md R29). -/
def sourceOf : Instr → Option Reg
  | .fromint _ _ _ => none
  | .toint rs => some rs
  | .bitw _ => none
  | .inc _ rs => some rs
  | .skip _ rs _ => some rs
  | .numw32 _ => none
  | .numw64 _ => none
  | .getw32 rs _ => some rs
  | .getw64 rs _ => some rs

/-- The destination register of an instruction (10_state.md R29). -/
def destOf : Instr → Option Reg
  | .fromint rd _ _ => some rd
  | .toint _ => none
  | .bitw _ => none
  | .inc rd _ => some rd
  | .skip rd _ _ => some rd
  | .numw32 _ => none
  | .numw64 _ => none
  | .getw32 _ _ => none
  | .getw64 _ _ => none

/-- The instruction takes its operand from the integer bus (30_encoding.md R56). -/
def usesBus : Instr → Bool
  | .fromint _ _ _ => true
  | .toint _ => false
  | .bitw _ => false
  | .inc _ _ => false
  | .skip _ _ _ => true
  | .numw32 _ => false
  | .numw64 _ => false
  | .getw32 _ _ => false
  | .getw64 _ _ => false

/-! ### The priority of the checks (60_exceptions.md R136), from the command word -/

/-- The word matches a row of the opcode table (30_encoding.md R66, 60_exceptions.md R132). -/
def legalWord (w : CmdWord) : Bool := opcodeTable.any fun r => r.hits w

/-- The opcodes of the commands that read `v[rs]`: TOINT, INC, SKIP, GETW32, GETW64 (10_state.md R29). -/
def readsSource (w : CmdWord) : Bool := (opField w).toNat ∈ [2, 4, 5, 8, 9]

/-- The opcodes of the commands that take an index: GETW32, GETW64. -/
def takesIndex (w : CmdWord) : Bool := (opField w).toNat ∈ [8, 9]

/-- The granularity of a GETW word, `op[0]`: 0 is 32 bits, 1 is 64 bits (30_encoding.md R65). -/
def wordGranularity (w : CmdWord) : Granularity := if w.getLsbD 12 then .g64 else .g32

/-- The register holds a value with too few words for the index of the word (60_exceptions.md R131). -/
def indexOutside (w : CmdWord) : RegContent → Bool
  | .invalid => false
  | .valid x => decide (numWords x.shape (wordGranularity w) ≤ (immField w).toNat)

/-- The status of the response to a command word: the first check that fails, in the order of 60_exceptions.md R136. -/
def expectedStatus (w : CmdWord) (s : State) : Status :=
  let source := s.v.read (regOfNum (rsField w))
  if s.fsr.f then .halted
  else if !legalWord w then .illegalCommand
  else if readsSource w && source == .invalid then .unwrittenRegister
  else if takesIndex w && indexOutside w source then .invalidIndex
  else .ok

end Sys2Proof
end

