-- ==== Sys2Proof/Certificates/Slice0/Obligations.lean ====
section
/-! DEFINITION. What the provers are asked to settle: statements over all states and operands, each from numbered rules
of spec/. None is about a program. -/

open Sys2Proof Sys2Proof.Machine

/-! ### Reset, the invariant, the step -/

/-- 70_reset_and_hazards.md R156: after reset all four registers are invalid, FSR is 0, the unit is not busy and no
response is pending; it then waits for the first command: edges that present none leave it so, and it stays ready. -/
def Obligations.ResetIsInvalidRegistersAndIdle : Prop :=
  UnitReset State.reset ∧ cmdReady false State.reset = true ∧
    ∀ (cmd : CmdWord) (int : Bus), ∃ t, edge ⟨false, false, cmd, int⟩ State.reset = .next t ∧ UnitReset t ∧
      cmdReady false t = true ∧ t.responses = State.reset.responses

/-- The invariant `UnitInv` holds at reset. -/
def Obligations.InvariantHoldsAtReset : Prop := UnitInv State.reset

/-- Every step keeps the invariant (10_state.md R30, 30_encoding.md R59, 70_reset_and_hazards.md R161). That the responses
issued are a list in the state is the model's choice (log entry 1). -/
def Obligations.StepKeepsInvariant : Prop := ∀ s t, UnitInv s → step s = .next t → UnitInv t

/-- Every clock edge keeps the invariant, whatever is on the pins. The list of responses is the model's choice (log
entry 1). -/
def Obligations.ClockEdgeKeepsInvariant : Prop := ∀ (i : PinIn) s t, UnitInv s → edge i s = .next t → UnitInv t

/-- A step runs the decoded instruction: on the accepted state when the host presents the command, on the state itself
(its counter advanced) when the command is in flight; a word that does not decode is illegal in either case
(30_encoding.md R58, R67, R68); with nothing in flight and nothing left to present the unit idles, and all its state is
kept (60_exceptions.md R148). The host's list, the counter and the idle step are the model's (log entries 1, 2, 3). -/
def Obligations.StepRunsTheDecodedInstruction : Prop :=
  (∀ (s : State) (cmd : CmdWord) (int : Int) (es : List HostEvent) (i : Instr),
    s.inflight = none → s.host = .command cmd int :: es → decode cmd (busImage int) = .ok i →
      step s = exec i (accept (presented cmd int) { tick s with host := es })) ∧
  (∀ (s : State) (p : InFlight) (i : Instr),
    s.inflight = some p → decode p.command.cmd p.command.cmdInt = .ok i → step s = exec i (tick s)) ∧
  (∀ (s : State) (cmd : CmdWord) (int : Int) (es : List HostEvent) (r : Reject),
    s.inflight = none → s.host = .command cmd int :: es → decode cmd (busImage int) = .error r →
      step s = illegal cmd (accept (presented cmd int) { tick s with host := es })) ∧
  (∀ (s : State) (p : InFlight) (r : Reject),
    s.inflight = some p → decode p.command.cmd p.command.cmdInt = .error r →
      step s = illegal p.command.cmd (tick s)) ∧
  (∀ s : State, s.inflight = none → s.host = [] → step s = .next { s with rsp := none, fresh := s.fresh + 1 })

/-- A reset that the host asserts between two commands is one step (70_reset_and_hazards.md R157): the unit's own state
becomes that of reset (R155), no response is issued, and the host's list goes on. That the list, the responses and the
counter are kept is the model's (log entries 1, 2, 3). -/
def Obligations.ResetEventIsOneStep : Prop :=
  ∀ (s : State) (es : List HostEvent), s.inflight = none → s.host = .reset :: es →
    ∃ t, step s = .next t ∧ UnitReset t ∧ cmdReady false t = true ∧ t.host = es ∧ t.responses = s.responses ∧
      t.fresh = s.fresh + 1

/-- 70_reset_and_hazards.md R155 for the step: a step that takes no reset from the host keeps FSR of a halted unit and
keeps every valid register valid. The host's list is the model's (log entries 1, 2). -/
def Obligations.StepsWithoutResetKeepFsrAndValidity : Prop :=
  ∀ s t : State, s.inflight ≠ none ∨ s.host.head? ≠ some .reset → step s = .next t →
    (s.fsr.f = true → t.fsr = s.fsr) ∧ ∀ r, s.v.read r ≠ .invalid → t.v.read r ≠ .invalid

/-- 60_exceptions.md R148: between commands the unit idles. An edge with `rst = 0` and `cmd_valid = 0`, with no command in
flight, keeps every value register and all of FSR, on every state; no response is shown or issued, and the unit stays
ready. The host's list and the counter are the model's (log entries 1, 3). -/
def Obligations.IdleEdgeKeepsAllState : Prop :=
  ∀ (i : PinIn) (s : State), s.inflight = none → i.rst = false → i.cmdValid = false →
    ∃ t, edge i s = .next t ∧ t.v = s.v ∧ t.fsr = s.fsr ∧ t.inflight = none ∧ t.rsp = none ∧
      cmdReady false t = true ∧ t.host = s.host ∧ t.responses = s.responses ∧ t.fresh = s.fresh + 1

/-! ### Encoding -/

/-- Words the spec writes out (30_encoding.md R71, 95_test_vectors.md 2.7) decode to the instruction they stand for, and a
one-bit neighbour of some is rejected by name. R71 prints 0x5500 for `SKIP v1, v1, #-1`; the bus carries the residue alone,
and that the decoder gives `2^256 - 1` for it is the model's representative (log entry 5). -/
def Obligations.WordsOfTheSpecDecode : Prop :=
  decode 0x1401 5 = .ok (.fromint .v1 .s4x32 5) ∧ decode 0x1C01 0 = .ok (.fromint .v3 .s4x32 0) ∧
  decode 0x2100 0 = .ok (.toint .v1) ∧ decode 0x3002 0 = .ok (.bitw .s2x64) ∧
  decode 0x4900 0 = .ok (.inc .v2 .v1) ∧
  decode 0x5500 (BitVec.allOnes 256) = .ok (.skip .v1 .v1 (2 ^ 256 - 1)) ∧
  decode 0x6003 0 = .ok (.numw32 .s4x64) ∧ decode 0x7001 0 = .ok (.numw64 .s4x32) ∧
  decode 0x8003 0 = .ok (.getw32 .v0 3) ∧ decode 0x9300 0 = .ok (.getw64 .v3 0) ∧
  decode 0x1D01 0 = .error .rsNotZero ∧ decode 0x2B00 0 = .error .rdNotZero ∧
  decode 0x4980 0 = .error .immNotZero ∧ decode 0xA000 0 = .error (.reservedOpcode 0xA)

/-- Decoding the encoding of a well-formed instruction gives it back, with every operand at every value. An integer operand
is well-formed when it is the residue the decoder gives, the model's representative (log entry 5). -/
def Obligations.DecodeOfEncodeIsTheInstruction : Prop :=
  ∀ i : Instr, i.wellFormed = true → decode (encodeWord i) (encodeBus i) = .ok i

/-- Encoding what a word decodes to gives the word back, the instruction is well-formed, and the bus of an instruction
that uses it is given back too. Well-formed is as log entry 5 has it. -/
def Obligations.EncodeOfDecodeIsTheWord : Prop :=
  ∀ (w : CmdWord) (b : Bus) (i : Instr), decode w b = .ok i →
    encodeWord i = w ∧ i.wellFormed = true ∧ (usesBus i = true → encodeBus i = b)

/-- 30_encoding.md R66: the decoder accepts a word iff the word matches a row of the opcode table, the row is that of the
instruction's mnemonic, and no word matches two rows. -/
def Obligations.DecoderAcceptsExactlyTheTableRows : Prop :=
  (∀ (w : CmdWord) (b : Bus), (∃ i, decode w b = .ok i) ↔ ∃ r ∈ opcodeTable, w &&& r.mask = r.pattern) ∧
  (∀ (w : CmdWord) (b : Bus) (i : Instr), decode w b = .ok i →
    ∀ r ∈ opcodeTable, w &&& r.mask = r.pattern → r.mnemonic = i.mnemonic) ∧
  (∀ (w : CmdWord), ∀ r ∈ opcodeTable, ∀ r' ∈ opcodeTable,
    w &&& r.mask = r.pattern → w &&& r'.mask = r'.pattern → r = r')

/-- 30_encoding.md R61, R62: the bus carries `x mod 2^256`; `−1` is all ones, `2^256` is 0, and `−2^64` is 192 one bits and
64 zero bits. -/
def Obligations.IntegerBusCarriesTheResidue : Prop :=
  (∀ x : Int, ((busImage x).toNat : Int) = x % 2 ^ 256) ∧
  (∀ x : Int, x < 0 → (-x) % 2 ^ 256 ≠ 0 → ((busImage x).toNat : Int) = 2 ^ 256 - (-x) % 2 ^ 256) ∧
  busImage (-1) = BitVec.allOnes 256 ∧ busImage (2 ^ 256) = 0 ∧
  busImage (-2 ^ 64) = BitVec.allOnes 192 ++ (0 : BitVec 64)

/-- 30_encoding.md R61, R62: presented at the ports, an instruction does what its meaning says for EVERY integer operand,
of either sign and any size, although the bus carries 256 bits of it; a command without an integer operand ignores the
bus. -/
def Obligations.PresentedInstructionDoesItsMeaning : Prop :=
  ∀ (i : Instr) (b : Bus) (s : State), (usesBus i = true → b = encodeBus i) →
    execute ⟨encodeWord i, b⟩ s = exec i s

/-- 30_encoding.md R71: lines of assembler text give the instructions the spec prints words for, the SKIP line with a
comment of R70 added to it, and two instructions are listed as R75 describes. The lexical detail of a line, and a listing
without leading zeros in the integer, are the model's choice (log entry 11). -/
def Obligations.AssemblerLinesOfTheSpec : Prop :=
  assemble "FROMINT v1, S4x32, #5".toList = .command (.fromint .v1 .s4x32 5) ∧
  assemble "INC v2, v1".toList = .command (.inc .v2 .v1) ∧
  assemble "SKIP v1, v1, #-1 ; borrow".toList = .command (.skip .v1 .v1 (-1)) ∧
  assemble "GETW32 v0, 3".toList = .command (.getw32 .v0 3) ∧
  assemble "TOINT v1".toList = .command (.toint .v1) ∧
  assemble "BITW S2x64".toList = .command (.bitw .s2x64) ∧
  listCommand (.fromint .v1 .s4x32 5) = "0x1401 / 0x5".toList ∧
  listCommand (.inc .v2 .v1) = "0x4900 / -".toList

/-! ### The function layer: FixedWidthInteger -/

/-- 40_fixedwidth.md R85, 42_wordview.md R110: bitWidth and numWords of the four shapes, and `numWords(s, g) × g = bitWidth(s)`. -/
def Obligations.WidthsAndWordCountsOfTheShapes : Prop :=
  (∀ s : Shape, bitWidth s = s.width * s.arity ∧ ∀ g : Granularity, numWords s g * g.bits = bitWidth s) ∧
  bitWidth .s2x32 = 64 ∧ bitWidth .s4x32 = 128 ∧ bitWidth .s2x64 = 128 ∧ bitWidth .s4x64 = 256 ∧
  numWords .s2x32 .g32 = 2 ∧ numWords .s2x32 .g64 = 1 ∧ numWords .s4x32 .g32 = 4 ∧ numWords .s4x32 .g64 = 2 ∧
  numWords .s2x64 .g32 = 4 ∧ numWords .s2x64 .g64 = 2 ∧ numWords .s4x64 .g32 = 8 ∧ numWords .s4x64 .g64 = 4

/-- 40_fixedwidth.md R84: the round-trip laws; toInteger and fromInteger are mutually inverse bijections between the values
of a shape and `[0, 2^B(s))`. -/
def Obligations.ConversionsRoundTrip : Prop :=
  (∀ (s : Shape) (n : Int), (fromInteger s n).shape = s ∧ ((fromInteger s n).toInteger : Int) = n % 2 ^ bitWidth s) ∧
  (∀ (s : Shape) (n : Nat), n < 2 ^ bitWidth s → (fromInteger s n).toInteger = n) ∧
  (∀ x : Value, x.toInteger < 2 ^ bitWidth x.shape ∧ fromInteger x.shape x.toInteger = x) ∧
  (∀ x y : Value, x.shape = y.shape → x.toInteger = y.toInteger → x = y)

/-- 40_fixedwidth.md R81: the packer is the bitwise OR of the shifted elements and their concatenation, for each shape. -/
def Obligations.PackerIsOrAndConcatenation : Prop :=
  (∀ x : Value, x.toInteger = x.packed.toNat) ∧
  (∀ a b : BitVec 32, (Value.w32 (.two a b)).toInteger = (a.toNat <<< 32) ||| b.toNat) ∧
  (∀ a b c d : BitVec 32, (Value.w32 (.four a b c d)).toInteger =
    (a.toNat <<< 96) ||| (b.toNat <<< 64) ||| (c.toNat <<< 32) ||| d.toNat) ∧
  (∀ a b : BitVec 64, (Value.w64 (.two a b)).toInteger = (a.toNat <<< 64) ||| b.toNat) ∧
  (∀ a b c d : BitVec 64, (Value.w64 (.four a b c d)).toInteger =
    (a.toNat <<< 192) ||| (b.toNat <<< 128) ||| (c.toNat <<< 64) ||| d.toNat)

/-- 40_fixedwidth.md R83: fromInteger depends on `n` only through `n mod 2^B(s)`, it is the fixed slices of the integer
bus, and the bus bits above `B(s)` are dropped. -/
def Obligations.UnpackerIsSlicesOfTheBus : Prop :=
  (∀ (s : Shape) (n m : Int), (2 ^ bitWidth s : Int) ∣ n - m → fromInteger s n = fromInteger s m) ∧
  (∀ (s : Shape) (n : Int), fromInteger s n = unpackBus s (busImage n)) ∧
  (∀ (s : Shape) (b c : Bus), b.toNat % 2 ^ bitWidth s = c.toNat % 2 ^ bitWidth s → unpackBus s b = unpackBus s c)

/-- 10_state.md R22: bit `j` of element `i` is bit `W(s) × (A(s)−1−i) + j` of the value's bit string. -/
def Obligations.ElementBitsInTheBitString : Prop :=
  ∀ (x : Value) (i j e : Nat), x.elemNats[i]? = some e → j < x.shape.width →
    x.toInteger.testBit (x.shape.width * (x.shape.arity - 1 - i) + j) = e.testBit j

/-! ### The function layer: Counter -/

/-- 41_counter.md R99: the ripple algorithm of increment equals `skip(1, ·)` on every value of every shape. -/
def Obligations.IncrementIsSkipOne : Prop := ∀ x : Value, increment x = skip 1 x

/-- 41_counter.md R96: increment of the all-ones value is the all-zero value, and no other input wraps. -/
def Obligations.IncrementWrapsOnlyAllOnes : Prop :=
  (∀ s : Shape, increment (onesOf s) = zeroOf s) ∧
  ∀ x : Value, increment x = zeroOf x.shape ↔ x = onesOf x.shape

/-- 41_counter.md R97: skip adds the offset modulo `2^B(s)`, for every offset of either sign and any size, and keeps the
shape. -/
def Obligations.SkipAddsModuloTheWidth : Prop :=
  ∀ (offset : Int) (x : Value), skip offset x = fromInteger x.shape (x.toInteger + offset) ∧
    (skip offset x).shape = x.shape ∧
    ((skip offset x).toInteger : Int) = (x.toInteger + offset) % 2 ^ bitWidth x.shape

/-- 41_counter.md R100: skip depends on the offset only modulo `2^B(s)`; skip by 0, composition, inverse, and repeated
increment. -/
def Obligations.SkipLaws : Prop :=
  (∀ (a b : Int) (x : Value), (2 ^ bitWidth x.shape : Int) ∣ a - b → skip a x = skip b x) ∧
  (∀ x : Value, skip (2 ^ bitWidth x.shape) x = x ∧ skip (-1) x = skip (2 ^ bitWidth x.shape - 1) x) ∧
  (∀ x : Value, skip 0 x = x) ∧
  (∀ (a b : Int) (x : Value), skip a (skip b x) = skip (a + b) x) ∧
  (∀ (a : Int) (x : Value), skip (-a) (skip a x) = x) ∧
  (∀ (k : Nat) (x : Value), skip k x = Nat.iterate increment k x)

/-- 41_counter.md R101: the carry-chain adder, element by element with the last carry dropped, computes skip; each stage's
sum is at most `2^(W+1) − 1`. -/
def Obligations.CarryChainComputesSkip : Prop :=
  (∀ (offset : Int) (x : Value), skipChain offset x = skip offset x) ∧
  (∀ (w : Nat) (a b : BitVec w) (c : Bool), exactSum a b c ≤ 2 ^ (w + 1) - 1)

/-- 41_counter.md R102: the chain with second operand zero and carry in 1 computes increment, and is the chain of skip by
one. -/
def Obligations.CarryChainComputesIncrement : Prop :=
  ∀ x : Value, incrementChain x = increment x ∧ incrementChain x = skipChain 1 x

/-! ### The function layer: WordView -/

/-- 42_wordview.md R115: the word multiplexer (R114) equals the formula (R112), at every index and both granularities. -/
def Obligations.MultiplexerIsTheFormula : Prop :=
  ∀ (g : Granularity) (k : Nat) (x : Value), muxWord g k x = getWord g k x

/-- 42_wordview.md R117: no word outside `[0, numWords)` and a word at every index inside, by the formula and by the
multiplexer; numWords is the smallest failing index. -/
def Obligations.WordsExactlyInBounds : Prop :=
  (∀ (g : Granularity) (index : Int) (x : Value),
    getWord g index x = none ↔ index < 0 ∨ (numWords x.shape g : Int) ≤ index) ∧
  (∀ (g : Granularity) (k : Nat) (x : Value), muxWord g k x = none ↔ numWords x.shape g ≤ k)

/-- 42_wordview.md R116: the words of a view, in index order, read back as one big-endian bit string, are the value, at
either granularity, by concatenation and by the shifted sum; a 64-bit word is its two 32-bit words joined. -/
def Obligations.ViewsReconstructTheValue : Prop :=
  (∀ (g : Granularity) (x : Value),
    (viewWords g x).length = numWords x.shape g ∧ joinWords g (viewWords g x) = x.toInteger ∧
      ∑ k ∈ Finset.range (numWords x.shape g),
        ((getWord g (k : Int) x).getD 0) <<< (g.bits * (numWords x.shape g - 1 - k)) = x.toInteger) ∧
  (∀ (q : Nat) (x : Value) (w : Nat), getWord .g64 (q : Int) x = some w →
    ∃ hi lo : Nat, getWord .g32 ((2 * q : Nat) : Int) x = some hi ∧
      getWord .g32 ((2 * q + 1 : Nat) : Int) x = some lo ∧ w = (hi <<< 32) ||| lo)

/-- 42_wordview.md R113: a 64-bit element at 32 bits is its high half at index `2p` and its low half at `2p + 1`; two
consecutive 32-bit elements at 64 bits are joined, the first in the upper half; at the native width word `k` is element
`k`. -/
def Obligations.CrossWidthSlicing : Prop :=
  (∀ (t : Tuple 64) (p : Nat) (e : BitVec 64), t.elems[p]? = some e →
    getWord .g32 ((2 * p : Nat) : Int) (.w64 t) = some (e.toNat >>> 32) ∧
      getWord .g32 ((2 * p + 1 : Nat) : Int) (.w64 t) = some (e.toNat % 2 ^ 32)) ∧
  (∀ (t : Tuple 32) (q : Nat) (a b : BitVec 32), t.elems[2 * q]? = some a → t.elems[2 * q + 1]? = some b →
    getWord .g64 (q : Int) (.w32 t) = some ((a.toNat <<< 32) ||| b.toNat)) ∧
  (∀ (t : Tuple 32) (k : Nat) (e : BitVec 32), t.elems[k]? = some e →
    getWord .g32 (k : Int) (.w32 t) = some e.toNat) ∧
  (∀ (t : Tuple 64) (k : Nat) (e : BitVec 64), t.elems[k]? = some e →
    getWord .g64 (k : Int) (.w64 t) = some e.toNat)

/-! ### What each command does on a running unit -/

/-- 40_fixedwidth.md R86: FROMINT writes the value of shape `sh` whose integer is `n mod 2^B(sh)`, the slices of the bus;
any register, any shape, any integer. -/
def Obligations.FromintWritesTheUnpackedInteger : Prop :=
  ∀ (rd : Reg) (sh : Shape) (n : Int) (s : State), Safe s →
    ∃ t y, exec (.fromint rd sh n) s = .next t ∧ t.v.read rd = .valid y ∧ y = unpackBus sh (busImage n) ∧
      y.shape = sh ∧ (y.toInteger : Int) = n % 2 ^ bitWidth sh ∧ OthersKept rd s t ∧ t.fsr = s.fsr ∧
      Answered .ok 0 s t

/-- 40_fixedwidth.md R87: TOINT of a valid register answers its integer, without loss, and changes no state. -/
def Obligations.TointAnswersTheInteger : Prop :=
  ∀ (rs : Reg) (s : State) (x : Value), Safe s → s.v.read rs = .valid x →
    ∃ t d, exec (.toint rs) s = .next t ∧ d.toNat = x.toInteger ∧ d.toNat < 2 ^ bitWidth x.shape ∧ t.v = s.v ∧
      t.fsr = s.fsr ∧ Answered .ok d s t

/-- 40_fixedwidth.md R88, 42_wordview.md R119, R120: BITW, NUMW32 and NUMW64 answer the numbers of the shape and change no
state. -/
def Obligations.QueriesAnswerTheShapeNumbers : Prop :=
  ∀ (sh : Shape) (s : State), Safe s →
    (∃ t d, exec (.bitw sh) s = .next t ∧ d.toNat = bitWidth sh ∧ t.v = s.v ∧ t.fsr = s.fsr ∧ Answered .ok d s t) ∧
    (∃ t d, exec (.numw32 sh) s = .next t ∧ d.toNat = numWords sh .g32 ∧ t.v = s.v ∧ t.fsr = s.fsr ∧
      Answered .ok d s t) ∧
    (∃ t d, exec (.numw64 sh) s = .next t ∧ d.toNat = numWords sh .g64 ∧ t.v = s.v ∧ t.fsr = s.fsr ∧
      Answered .ok d s t)

/-- 41_counter.md R103: INC writes the value plus one modulo `2^B(s)`, of the source's shape; `rd = rs` is allowed. -/
def Obligations.IncWritesTheSuccessor : Prop :=
  ∀ (rd rs : Reg) (s : State) (x : Value), Safe s → s.v.read rs = .valid x →
    ∃ t y, exec (.inc rd rs) s = .next t ∧ t.v.read rd = .valid y ∧ y.shape = x.shape ∧
      y.toInteger = (x.toInteger + 1) % 2 ^ bitWidth x.shape ∧ OthersKept rd s t ∧ t.fsr = s.fsr ∧
      Answered .ok 0 s t

/-- 41_counter.md R104: SKIP writes the value plus the signed offset modulo `2^B(s)`, of the source's shape; `rd = rs` is
allowed. -/
def Obligations.SkipWritesTheSum : Prop :=
  ∀ (rd rs : Reg) (offset : Int) (s : State) (x : Value), Safe s → s.v.read rs = .valid x →
    ∃ t y, exec (.skip rd rs offset) s = .next t ∧ t.v.read rd = .valid y ∧ y.shape = x.shape ∧
      (y.toInteger : Int) = (x.toInteger + offset) % 2 ^ bitWidth x.shape ∧ OthersKept rd s t ∧ t.fsr = s.fsr ∧
      Answered .ok 0 s t

/-- 42_wordview.md R121: GETW32 with an index in bounds answers that 32-bit chunk of the value and changes no state. -/
def Obligations.Getw32AnswersTheWord : Prop :=
  ∀ (rs : Reg) (idx : Idx) (s : State) (x : Value), Safe s → s.v.read rs = .valid x →
    idx.toNat < numWords x.shape .g32 →
    ∃ t d, exec (.getw32 rs idx) s = .next t ∧
      d.toNat = (x.toInteger >>> (32 * (numWords x.shape .g32 - 1 - idx.toNat))) % 2 ^ 32 ∧ t.v = s.v ∧
      t.fsr = s.fsr ∧ Answered .ok d s t

/-- 42_wordview.md R122: GETW64 with an index in bounds answers that 64-bit chunk of the value and changes no state. -/
def Obligations.Getw64AnswersTheWord : Prop :=
  ∀ (rs : Reg) (idx : Idx) (s : State) (x : Value), Safe s → s.v.read rs = .valid x →
    idx.toNat < numWords x.shape .g64 →
    ∃ t d, exec (.getw64 rs idx) s = .next t ∧
      d.toNat = (x.toInteger >>> (64 * (numWords x.shape .g64 - 1 - idx.toNat))) % 2 ^ 64 ∧ t.v = s.v ∧
      t.fsr = s.fsr ∧ Answered .ok d s t

/-- 41_counter.md R105: INC and SKIP with offset 1 give the same next state on every state, but for the word recorded in
FSR.CMD when the source register is invalid. -/
def Obligations.IncAndSkipOneAreIndistinguishable : Prop :=
  (∀ (rd rs : Reg) (s : State), s.v.read rs ≠ .invalid ∨ s.fsr.f = true →
    exec (.inc rd rs) s = exec (.skip rd rs 1) s) ∧
  (∀ (rd rs : Reg) (s : State), s.v.read rs = .invalid → Safe s →
    ∃ t u, exec (.inc rd rs) s = .next t ∧ exec (.skip rd rs 1) s = .next u ∧
      t.rsp = some ⟨.unwrittenRegister, 0⟩ ∧ opField t.fsr.cmd = 4 ∧ opField u.fsr.cmd = 5 ∧
      u = { t with fsr := { t.fsr with cmd := u.fsr.cmd } })

/-- 30_encoding.md R72, R73, R74: MOV copies shape and tuple and faults on an invalid source, DEC subtracts one and takes
zero to all ones, ZERO and ONES load their constants. -/
def Obligations.PseudoInstructionsExpand : Prop :=
  (∀ (rd rs : Reg) (s : State) (x : Value), Safe s → s.v.read rs = .valid x →
    ∃ t, exec (pseudoMov rd rs) s = .next t ∧ t.v.read rd = .valid x) ∧
  (∀ (rd rs : Reg) (s : State), Safe s → s.v.read rs = .invalid →
    ∃ t, exec (pseudoMov rd rs) s = .next t ∧ Answered .unwrittenRegister 0 s t) ∧
  (∀ (rd rs : Reg) (s : State) (x : Value), Safe s → s.v.read rs = .valid x →
    ∃ t y, exec (pseudoDec rd rs) s = .next t ∧ t.v.read rd = .valid y ∧
      (y.toInteger : Int) = (x.toInteger - 1) % 2 ^ bitWidth x.shape ∧ (x = zeroOf x.shape → y = onesOf x.shape)) ∧
  (∀ (rd : Reg) (sh : Shape) (s : State), Safe s →
    (∃ t, exec (pseudoZero rd sh) s = .next t ∧ t.v.read rd = .valid (zeroOf sh)) ∧
    (∃ t, exec (pseudoOnes rd sh) s = .next t ∧ t.v.read rd = .valid (onesOf sh)))

/-! ### Faults -/

/-- 60_exceptions.md R132, R137: a word that matches no row of the opcode table takes the fault IllegalCommand. -/
def Obligations.UnmatchedWordTakesIllegalCommand : Prop :=
  ∀ (c : Command) (s : State), Safe s → (∀ r ∈ opcodeTable, c.cmd &&& r.mask ≠ r.pattern) →
    ∃ t, execute c s = .next t ∧ t.v = s.v ∧ t.fsr = ⟨true, .illegalCommand, c.cmd⟩ ∧
      Answered .illegalCommand 0 s t

/-- 60_exceptions.md R133, R137: a command that reads an invalid source register takes the fault UnwrittenRegister; the
destination register is not written. -/
def Obligations.InvalidSourceTakesUnwrittenRegister : Prop :=
  ∀ (i : Instr) (rs : Reg) (s : State), Safe s → sourceOf i = some rs → s.v.read rs = .invalid →
    ∃ t, exec i s = .next t ∧ t.v = s.v ∧ t.fsr = ⟨true, .unwrittenRegister, encodeWord i⟩ ∧
      Answered .unwrittenRegister 0 s t

/-- 60_exceptions.md R131, R137, 42_wordview.md R123: an index at or above numWords takes the fault InvalidIndex, at either
granularity; no bit of the index is ignored. -/
def Obligations.IndexOutsideTakesInvalidIndex : Prop :=
  (∀ (rs : Reg) (idx : Idx) (s : State) (x : Value), Safe s → s.v.read rs = .valid x →
    numWords x.shape .g32 ≤ idx.toNat →
    ∃ t, exec (.getw32 rs idx) s = .next t ∧ t.v = s.v ∧
      t.fsr = ⟨true, .invalidIndex, encodeWord (.getw32 rs idx)⟩ ∧ Answered .invalidIndex 0 s t) ∧
  (∀ (rs : Reg) (idx : Idx) (s : State) (x : Value), Safe s → s.v.read rs = .valid x →
    numWords x.shape .g64 ≤ idx.toNat →
    ∃ t, exec (.getw64 rs idx) s = .next t ∧ t.v = s.v ∧
      t.fsr = ⟨true, .invalidIndex, encodeWord (.getw64 rs idx)⟩ ∧ Answered .invalidIndex 0 s t)

/-- 60_exceptions.md R139: a halted unit answers HALTED with data 0 to every command, legal or not, and no value register
and no field of FSR changes. -/
def Obligations.HaltedUnitOnlyAnswersHalted : Prop :=
  (∀ (c : Command) (s : State), ¬ Safe s →
    ∃ t, execute c s = .next t ∧ t.v = s.v ∧ t.fsr = s.fsr ∧ Answered .halted 0 s t) ∧
  (∀ (i : Instr) (s : State), ¬ Safe s →
    ∃ t, exec i s = .next t ∧ t.v = s.v ∧ t.fsr = s.fsr ∧ Answered .halted 0 s t)

/-- 60_exceptions.md R136: every command gets a response, and its status is that of the first check that fails, in the
order halted, illegal, unwritten, index, read off the command word and the state before. -/
def Obligations.ChecksInPriorityOrder : Prop :=
  ∀ (c : Command) (s : State), ∃ t r, execute c s = .next t ∧ t.rsp = some r ∧ t.responses = s.responses ++ [r] ∧
    r.status = expectedStatus c.cmd s

/-- 60_exceptions.md R138: a response that is not OK carries data 0 and leaves every value register as it was. -/
def Obligations.FaultsArePrecise : Prop :=
  ∀ (c : Command) (s t : State) (r : Response), execute c s = .next t → t.rsp = some r → r.status ≠ .ok →
    t.v = s.v ∧ r.data = 0

/-- The 20 bits of FSR (10_state.md R30), and the fault pins that show them (R31). -/
def Obligations.FsrLayoutAndFaultPins : Prop :=
  (∀ r : Fsr, r.bits.toNat = r.cmd.toNat * 16 + r.cause.code.toNat * 2 + r.f.toNat) ∧
  (∀ (rst : Bool) (s : State), (pins rst s).fltValid = s.fsr.bits.getLsbD 0 ∧
    (pins rst s).fltCause = s.fsr.bits.extractLsb' 1 3 ∧ (pins rst s).fltCmd = s.fsr.bits.extractLsb' 4 16)

/-! ### Frames and whole-machine rules -/

/-- Frame of TOINT, BITW, NUMW32, NUMW64, GETW32, GETW64 (20_memory.md R47): no value register changes, whatever the
response; with the response OK nothing of FSR changes either. -/
def Obligations.FrameOfReadingCommands : Prop :=
  ∀ (i : Instr) (s t : State), destOf i = none → exec i s = .next t →
    t.v = s.v ∧ t.host = s.host ∧ t.fresh = s.fresh ∧ t.inflight = none ∧
      ∀ d, t.rsp = some ⟨.ok, d⟩ → t.fsr = s.fsr

/-- Frame of FROMINT, INC, SKIP (10_state.md R29): no value register but the destination changes; with the response OK
nothing of FSR changes, and the data is 0. -/
def Obligations.FrameOfWritingCommands : Prop :=
  ∀ (i : Instr) (rd : Reg) (s t : State), destOf i = some rd → exec i s = .next t →
    OthersKept rd s t ∧ t.host = s.host ∧ t.fresh = s.fresh ∧ t.inflight = none ∧
      ∀ d, t.rsp = some ⟨.ok, d⟩ → t.fsr = s.fsr ∧ d = 0

/-- 70_reset_and_hazards.md R155: an edge with `rst = 1` gives the reset state, whatever the state was; no other edge
clears FSR or makes a valid register invalid. -/
def Obligations.OnlyResetClearsFsrAndInvalidates : Prop :=
  (∀ (i : PinIn) (s : State), i.rst = true → ∃ t, edge i s = .next t ∧ UnitReset t) ∧
  (∀ (i : PinIn) (s t : State), i.rst = false → edge i s = .next t →
    (s.fsr.f = true → t.fsr = s.fsr) ∧ ∀ r, s.v.read r ≠ .invalid → t.v.read r ≠ .invalid)

/-- 70_reset_and_hazards.md R158: as the first command after reset BITW, NUMW32, NUMW64 and FROMINT answer OK, and TOINT,
INC, SKIP, GETW32 and GETW64 fault. -/
def Obligations.FirstCommandAfterReset : Prop :=
  ∀ i : Instr, ∃ t d, exec i State.reset = .next t ∧
    t.rsp = some ⟨if sourceOf i = none then .ok else .unwrittenRegister, d⟩

/-! ### The pins -/

/-- What a clock edge without reset does with a command (70_reset_and_hazards.md R159, R160, R161): it is sampled at the
accepting edge and at no other time, a waiting edge changes no register, and the edge that starts the response cycle runs
it as a step does. The count of waiting edges is a free value (log entry 3); that a command is taken in a response cycle
too is the model's reading (log entry 6). -/
def Obligations.ClockEdgeAcceptsWaitsAndRuns : Prop :=
  (∀ (i : PinIn) (s : State), s.inflight = none → i.rst = false → i.cmdValid = true →
    ∃ t, edge i s = .next t ∧ t.v = s.v ∧ t.fsr = s.fsr ∧ t.rsp = none ∧ t.responses = s.responses ∧
      t.inflight = some ⟨⟨i.cmd, i.cmdInt⟩, latency ⟨i.cmd, i.cmdInt⟩ s - 1⟩) ∧
  (∀ (i : PinIn) (s : State) (c : Command) (n : Nat), s.inflight = some ⟨c, n + 1⟩ → i.rst = false →
    ∃ t, edge i s = .next t ∧ t.v = s.v ∧ t.fsr = s.fsr ∧ t.rsp = none ∧ t.responses = s.responses ∧
      t.inflight = some ⟨c, n⟩) ∧
  (∀ (i : PinIn) (s : State) (c : Command), s.inflight = some ⟨c, 0⟩ → i.rst = false →
    edge i s = execute c (tick s) ∧ edge i s = step s)

/-- 70_reset_and_hazards.md R160: a busy unit is not ready and takes nothing from the command port. -/
def Obligations.BusyUnitAcceptsNothing : Prop :=
  ∀ (i j : PinIn) (s : State), s.busy = true → i.rst = false → j.rst = false →
    cmdReady false s = false ∧ edge i s = edge j s

/-- 70_reset_and_hazards.md R161: a response is shown for exactly one cycle. That the unit is ready in that cycle, and so
may take a command at the edge that ends it, is the model's reading (log entry 6). -/
def Obligations.ResponseIsShownForOneCycle : Prop :=
  ∀ (i : PinIn) (s t : State) (r : Response), UnitInv s → s.rsp = some r → edge i s = .next t → t.rsp = none

/-- 70_reset_and_hazards.md R157: a reset while a command is in flight gives the reset state, no response, and the same as a
reset instead of the command, but for the model's counter (log entry 3); `cmd_ready` is 0 in the cycle of `rst = 1` itself
(log entry 12), and that a command is taken in a response cycle too is the model's reading (log entry 6). -/
def Obligations.ResetAbandonsTheCommandInFlight : Prop :=
  ∀ (c : Command) (waits : List PinIn) (i : PinIn) (s : State), s.inflight = none → i.rst = true →
    (∀ j ∈ waits, j.rst = false) → waits.length < latency c s →
    ∃ t u u', edges (presenting c :: waits) s = .next t ∧ t.busy = true ∧ edge i t = .next u ∧
      edge i s = .next u' ∧ UnitReset u ∧ u.responses = s.responses ∧ cmdReady true t = false ∧
      u = { u' with fresh := u.fresh }

/-- 70_reset_and_hazards.md R159, R161, R167: a command presented to an idle unit gets its one response exactly LAT edges
after the accepting edge, whatever stands on the pins meanwhile, and leaves the registers, FSR and the response that the
step of 30_encoding.md R58 gives; until then nothing is shown and nothing changes. The latency is a free value (log
entry 3); that step and edge act on one state, and that a command is taken in a response cycle too, is the model's (log
entries 2 and 6). -/
def Obligations.PinsRefineTheTransaction : Prop :=
  (∀ (cmd : CmdWord) (int : Int) (waits : List PinIn) (s : State), s.inflight = none →
    (∀ j ∈ waits, j.rst = false) → waits.length = latency (presented cmd int) s →
    ∃ t u r, edges (presenting (presented cmd int) :: waits) s = .next t ∧
      step { s with host := .command cmd int :: s.host } = .next u ∧
      t.v = u.v ∧ t.fsr = u.fsr ∧ t.rsp = some r ∧ u.rsp = some r ∧ t.responses = s.responses ++ [r] ∧
      u.responses = s.responses ++ [r] ∧ t.inflight = none ∧ u.inflight = none ∧ t.host = s.host ∧ u.host = s.host) ∧
  (∀ (c : Command) (waits : List PinIn) (s : State), s.inflight = none → (∀ j ∈ waits, j.rst = false) →
    waits.length < latency c s →
    ∃ t, edges (presenting c :: waits) s = .next t ∧ t.busy = true ∧ t.rsp = none ∧ t.v = s.v ∧ t.fsr = s.fsr ∧
      t.responses = s.responses)
end

