-- ==== Sys2Proof/Laws/Encoding.lean ====
section
/-! SUPPORT. The small lemmas of the encoding: registers and tags as numbers, a word as its four fields. -/

namespace Sys2Proof

@[simp] theorem regOfNum_num (r : Reg) : regOfNum r.num = r := by cases r <;> rfl

@[simp] theorem num_regOfNum (n : BitVec 2) : (regOfNum n).num = n := by revert n; decide

@[simp] theorem shapeOfTag_tag (s : Shape) : shapeOfTag s.tag = s := by cases s <;> rfl

@[simp] theorem tag_shapeOfTag (t : BitVec 2) : (shapeOfTag t).tag = t := by revert t; decide

/-- A concatenation as a number. -/
theorem append_toNat {n m : Nat} (a : BitVec n) (b : BitVec m) : (a ++ b).toNat = a.toNat * 2 ^ m + b.toNat := by
  rw [BitVec.toNat_append, ← Nat.shiftLeft_add_eq_or_of_lt b.isLt, Nat.shiftLeft_eq]

/-- `(op << 12) | (rd << 10) | (rs << 8) | imm8` as a number (30_encoding.md R71). -/
theorem packWord_toNat (op : BitVec 4) (rd rs : BitVec 2) (imm : BitVec 8) :
    (packWord op rd rs imm).toNat = op.toNat * 4096 + rd.toNat * 1024 + rs.toNat * 256 + imm.toNat := by
  rw [packWord, append_toNat, append_toNat, append_toNat]
  ring

section Fields
variable (op : BitVec 4) (rd rs : BitVec 2) (imm : BitVec 8)

theorem opField_packWord : opField (packWord op rd rs imm) = op := by
  apply BitVec.eq_of_toNat_eq
  have := op.isLt; have := rd.isLt; have := rs.isLt; have := imm.isLt
  simp only [opField, BitVec.extractLsb'_toNat, packWord_toNat, Nat.shiftRight_eq_div_pow]
  omega

theorem rdField_packWord : rdField (packWord op rd rs imm) = rd := by
  apply BitVec.eq_of_toNat_eq
  have := op.isLt; have := rd.isLt; have := rs.isLt; have := imm.isLt
  simp only [rdField, BitVec.extractLsb'_toNat, packWord_toNat, Nat.shiftRight_eq_div_pow]
  omega

theorem rsField_packWord : rsField (packWord op rd rs imm) = rs := by
  apply BitVec.eq_of_toNat_eq
  have := op.isLt; have := rd.isLt; have := rs.isLt; have := imm.isLt
  simp only [rsField, BitVec.extractLsb'_toNat, packWord_toNat, Nat.shiftRight_eq_div_pow]
  omega

theorem immField_packWord : immField (packWord op rd rs imm) = imm := by
  apply BitVec.eq_of_toNat_eq
  have := op.isLt; have := rd.isLt; have := rs.isLt; have := imm.isLt
  simp only [immField, BitVec.extractLsb'_toNat, packWord_toNat, Nat.shiftRight_eq_div_pow]
  omega

end Fields

/-- Every word is its four fields. -/
theorem packWord_fields (w : CmdWord) : packWord (opField w) (rdField w) (rsField w) (immField w) = w := by
  apply BitVec.eq_of_toNat_eq
  have := w.isLt
  simp only [packWord_toNat, opField, rdField, rsField, immField, BitVec.extractLsb'_toNat,
    Nat.shiftRight_eq_div_pow]
  omega

theorem immHighField_eq (w : CmdWord) : immHighField w = (immField w).extractLsb' 2 6 := by
  apply BitVec.eq_of_toNat_eq
  simp only [immHighField, immField, BitVec.extractLsb'_toNat, Nat.shiftRight_eq_div_pow]
  omega

theorem tagField_eq (w : CmdWord) : tagField w = (immField w).extractLsb' 0 2 := by
  apply BitVec.eq_of_toNat_eq
  simp only [tagField, immField, BitVec.extractLsb'_toNat, Nat.shiftRight_eq_div_pow]
  omega

theorem tagImm_high (s : Shape) : (tagImm s).extractLsb' 2 6 = 0 := by cases s <;> decide

theorem tagImm_tag (s : Shape) : (tagImm s).extractLsb' 0 2 = s.tag := by cases s <;> decide

theorem tagImm_shapeOfTag (d : BitVec 8) (h : d.extractLsb' 2 6 = 0) : tagImm (shapeOfTag (d.extractLsb' 0 2)) = d := by
  revert d; decide

end Sys2Proof
end

