-- ==== Sys2Proof/Laws/Functions.lean ====
section
/-! SUPPORT. The function layer as arithmetic of natural numbers: one equation per definition. -/

namespace Sys2Proof.Machine

/-! ### toInteger of each shape, and the shape of a result -/

theorem toInteger_two32 (a b : BitVec 32) : (Value.w32 (.two a b)).toInteger = a.toNat * 2 ^ 32 + b.toNat := by
  simp [Value.toInteger, Tuple.elems, shiftedSum, Nat.shiftLeft_eq]

theorem toInteger_four32 (a b c d : BitVec 32) :
    (Value.w32 (.four a b c d)).toInteger = a.toNat * 2 ^ 96 + (b.toNat * 2 ^ 64 + (c.toNat * 2 ^ 32 + d.toNat)) := by
  simp [Value.toInteger, Tuple.elems, shiftedSum, Nat.shiftLeft_eq]

theorem toInteger_two64 (a b : BitVec 64) : (Value.w64 (.two a b)).toInteger = a.toNat * 2 ^ 64 + b.toNat := by
  simp [Value.toInteger, Tuple.elems, shiftedSum, Nat.shiftLeft_eq]

theorem toInteger_four64 (a b c d : BitVec 64) :
    (Value.w64 (.four a b c d)).toInteger = a.toNat * 2 ^ 192 + (b.toNat * 2 ^ 128 + (c.toNat * 2 ^ 64 + d.toNat)) := by
  simp [Value.toInteger, Tuple.elems, shiftedSum, Nat.shiftLeft_eq]

@[simp] theorem shape_fromInteger (s : Shape) (n : Int) : (fromInteger s n).shape = s := by cases s <;> rfl

@[simp] theorem shape_unpackBus (s : Shape) (b : Bus) : (unpackBus s b).shape = s := by cases s <;> rfl

@[simp] theorem shape_zeroOf (s : Shape) : (zeroOf s).shape = s := by cases s <;> rfl

@[simp] theorem shape_onesOf (s : Shape) : (onesOf s).shape = s := by cases s <;> rfl

@[simp] theorem toInteger_zeroOf (s : Shape) : (zeroOf s).toInteger = 0 := by cases s <;> decide

theorem toInteger_onesOf (s : Shape) : (onesOf s).toInteger = 2 ^ bitWidth s - 1 := by cases s <;> decide

/-! ### Elements -/

theorem digit_toNat (w a i : Nat) (n : Int) :
    (digit w a i n).toNat = ((n % 2 ^ (w * a)).toNat / 2 ^ (w * (a - 1 - i))) % 2 ^ w := by
  simp [digit, Nat.shiftRight_eq_div_pow]

theorem halfSelect_toNat (k : Nat) (e : BitVec 64) :
    (halfSelect k e).toNat = if k % 2 = 0 then e.toNat / 2 ^ 32 else e.toNat % 2 ^ 32 := by
  unfold halfSelect
  split_ifs <;> simp [BitVec.extractLsb'_toNat, Nat.shiftRight_eq_div_pow]
  omega

/-! ### The element adder -/

theorem addElement_sum {w : Nat} (a b : BitVec w) (c : Bool) :
    (addElement a b c).sum.toNat = (a.toNat + b.toNat + c.toNat) % 2 ^ w := by
  simp [addElement, exactSum]

theorem atMax_false {w : Nat} (e : BitVec w) : atMax e = false ↔ e.toNat ≠ 2 ^ w - 1 := by
  simp [atMax, BitVec.toNat_eq]

end Sys2Proof.Machine
end

