-- ==== Sys2Proof/Laws/State.lean ====
section
/-! SUPPORT. What each update of the state leaves in each field, one lemma per field per update. -/

namespace Sys2Proof.Machine

section Write
variable (s : State) (rd : Reg) (x : Value)
@[simp] theorem write_v : (s.write rd x).v = s.v.write rd x := rfl
@[simp] theorem write_fsr : (s.write rd x).fsr = s.fsr := rfl
@[simp] theorem write_inflight : (s.write rd x).inflight = s.inflight := rfl
@[simp] theorem write_rsp : (s.write rd x).rsp = s.rsp := rfl
@[simp] theorem write_host : (s.write rd x).host = s.host := rfl
@[simp] theorem write_responses : (s.write rd x).responses = s.responses := rfl
@[simp] theorem write_fresh : (s.write rd x).fresh = s.fresh := rfl
end Write

section Respond
variable (st : Status) (d : Bus) (s : State)
@[simp] theorem respond_v : (respond st d s).v = s.v := rfl
@[simp] theorem respond_fsr : (respond st d s).fsr = s.fsr := rfl
@[simp] theorem respond_inflight : (respond st d s).inflight = none := rfl
@[simp] theorem respond_rsp : (respond st d s).rsp = some ⟨st, d⟩ := rfl
@[simp] theorem respond_host : (respond st d s).host = s.host := rfl
@[simp] theorem respond_responses : (respond st d s).responses = s.responses ++ [⟨st, d⟩] := rfl
@[simp] theorem respond_fresh : (respond st d s).fresh = s.fresh := rfl
end Respond

section Raise
variable (k : FaultKind) (w : CmdWord) (s : State)
@[simp] theorem raise_v : (raise k w s).v = s.v := rfl
@[simp] theorem raise_fsr : (raise k w s).fsr = ⟨true, k.cause, w⟩ := rfl
@[simp] theorem raise_inflight : (raise k w s).inflight = none := rfl
@[simp] theorem raise_rsp : (raise k w s).rsp = some ⟨k.status, 0⟩ := rfl
@[simp] theorem raise_host : (raise k w s).host = s.host := rfl
@[simp] theorem raise_responses : (raise k w s).responses = s.responses ++ [⟨k.status, 0⟩] := rfl
@[simp] theorem raise_fresh : (raise k w s).fresh = s.fresh := rfl
end Raise

section Reset
variable (s : State)
@[simp] theorem resetUnit_v : (resetUnit s).v = RegFile.reset := rfl
@[simp] theorem resetUnit_fsr : (resetUnit s).fsr = Fsr.reset := rfl
@[simp] theorem resetUnit_inflight : (resetUnit s).inflight = none := rfl
@[simp] theorem resetUnit_rsp : (resetUnit s).rsp = none := rfl
@[simp] theorem resetUnit_host : (resetUnit s).host = s.host := rfl
@[simp] theorem resetUnit_responses : (resetUnit s).responses = s.responses := rfl
@[simp] theorem resetUnit_fresh : (resetUnit s).fresh = s.fresh := rfl
end Reset

section Tick
variable (s : State)
@[simp] theorem tick_v : (tick s).v = s.v := rfl
@[simp] theorem tick_fsr : (tick s).fsr = s.fsr := rfl
@[simp] theorem tick_inflight : (tick s).inflight = s.inflight := rfl
@[simp] theorem tick_rsp : (tick s).rsp = s.rsp := rfl
@[simp] theorem tick_host : (tick s).host = s.host := rfl
@[simp] theorem tick_responses : (tick s).responses = s.responses := rfl
@[simp] theorem tick_fresh : (tick s).fresh = s.fresh + 1 := rfl
end Tick

section Idle
variable (s : State)
@[simp] theorem idle_v : (idle s).v = s.v := rfl
@[simp] theorem idle_fsr : (idle s).fsr = s.fsr := rfl
@[simp] theorem idle_inflight : (idle s).inflight = s.inflight := rfl
@[simp] theorem idle_rsp : (idle s).rsp = none := rfl
@[simp] theorem idle_host : (idle s).host = s.host := rfl
@[simp] theorem idle_responses : (idle s).responses = s.responses := rfl
@[simp] theorem idle_fresh : (idle s).fresh = s.fresh := rfl
end Idle

section Accept
variable (c : Command) (s : State)
@[simp] theorem accept_v : (accept c s).v = s.v := rfl
@[simp] theorem accept_fsr : (accept c s).fsr = s.fsr := rfl
@[simp] theorem accept_inflight :
    (accept c s).inflight = some ⟨c, Config.extraLatency s c⟩ := rfl
@[simp] theorem accept_rsp : (accept c s).rsp = none := rfl
@[simp] theorem accept_host : (accept c s).host = s.host := rfl
@[simp] theorem accept_responses : (accept c s).responses = s.responses := rfl
@[simp] theorem accept_fresh : (accept c s).fresh = s.fresh := rfl
end Accept

end Sys2Proof.Machine
end

