-- ==== Sys2Proof/Laws/Ops.lean ====
section
/-! SUPPORT. What each shared operation can do, said once: register reads after writes, the halted check, a source
operand, the three command shapes, and the meaning of an instruction as a whole. -/

namespace Sys2Proof.Machine

/-! ### Registers -/

@[simp] theorem read_write_same (v : RegFile) (r : Reg) (x : Value) : (v.write r x).read r = .valid x := by
  cases r <;> rfl

theorem read_write_other (v : RegFile) {r rd : Reg} (x : Value) (h : r ≠ rd) : (v.write rd x).read r = v.read r := by
  cases r <;> cases rd <;> first | rfl | exact absurd rfl h

@[simp] theorem read_reset (r : Reg) : RegFile.reset.read r = .invalid := by cases r <;> rfl

/-- Two register files that read alike are equal. -/
theorem regFile_ext {v v' : RegFile} (h : ∀ r, v.read r = v'.read r) : v = v' := by
  obtain ⟨a, b, c, d⟩ := v
  obtain ⟨a', b', c', d'⟩ := v'
  obtain rfl : a = a' := h .v0
  obtain rfl : b = b' := h .v1
  obtain rfl : c = c' := h .v2
  obtain rfl : d = d' := h .v3
  rfl

/-! ### The halted check and the source operand -/

theorem unlessHalted_halted {s : State} {b : Result} (h : s.fsr.f = true) :
    unlessHalted s b = .next (respond .halted 0 s) := if_pos h

theorem unlessHalted_running {s : State} {b : Result} (h : s.fsr.f = false) : unlessHalted s b = b := by
  simp [unlessHalted, h]

theorem withSource_valid {rs : Reg} {w : CmdWord} {s : State} {b : Value → Result} {x : Value}
    (h : s.v.read rs = .valid x) : withSource rs w s b = b x := by simp [withSource, h]

theorem withSource_invalid {rs : Reg} {w : CmdWord} {s : State} {b : Value → Result}
    (h : s.v.read rs = .invalid) : withSource rs w s b = .next (raise .unwrittenRegister w s) := by
  simp [withSource, h]

/-! ### The command shapes of a running unit -/

theorem compute_valid {rd rs : Reg} {w : CmdWord} {f : Value → Value} {s : State} {x : Value}
    (hr : s.fsr.f = false) (h : s.v.read rs = .valid x) :
    compute rd rs w f s = .next (respond .ok 0 (s.write rd (f x))) := by
  rw [compute, unlessHalted_running hr, withSource_valid h, store]

theorem compute_invalid {rd rs : Reg} {w : CmdWord} {f : Value → Value} {s : State}
    (hr : s.fsr.f = false) (h : s.v.read rs = .invalid) :
    compute rd rs w f s = .next (raise .unwrittenRegister w s) := by
  rw [compute, unlessHalted_running hr, withSource_invalid h]

theorem query_running {n : Nat} {s : State} (hr : s.fsr.f = false) :
    query n s = .next (respond .ok (BitVec.ofNat 256 n) s) := by
  rw [query, unlessHalted_running hr, answer]

theorem readView_word {g : Nat} {rs : Reg} {w : CmdWord} {word : Value → Option (BitVec g)} {s : State} {x : Value}
    {d : BitVec g} (hr : s.fsr.f = false) (h : s.v.read rs = .valid x) (hd : word x = some d) :
    readView rs w word s = .next (respond .ok (BitVec.ofNat 256 d.toNat) s) := by
  simp [readView, unlessHalted_running hr, withSource_valid h, hd, answer]

theorem readView_outside {g : Nat} {rs : Reg} {w : CmdWord} {word : Value → Option (BitVec g)} {s : State} {x : Value}
    (hr : s.fsr.f = false) (h : s.v.read rs = .valid x) (hd : word x = none) :
    readView rs w word s = .next (raise .invalidIndex w s) := by
  simp [readView, unlessHalted_running hr, withSource_valid h, hd]

theorem readView_invalid {g : Nat} {rs : Reg} {w : CmdWord} {word : Value → Option (BitVec g)} {s : State}
    (hr : s.fsr.f = false) (h : s.v.read rs = .invalid) :
    readView rs w word s = .next (raise .unwrittenRegister w s) := by
  rw [readView, unlessHalted_running hr, withSource_invalid h]

theorem execFromint_running {rd : Reg} {sh : Shape} {n : Int} {s : State} (hr : s.fsr.f = false) :
    execFromint rd sh n s = .next (respond .ok 0 (s.write rd (fromInteger sh n))) := by
  rw [execFromint, unlessHalted_running hr, store]

theorem execToint_valid {rs : Reg} {s : State} {x : Value} (hr : s.fsr.f = false) (h : s.v.read rs = .valid x) :
    execToint rs s = .next (respond .ok (BitVec.ofNat 256 x.toInteger) s) := by
  rw [execToint, unlessHalted_running hr, withSource_valid h, answer]

theorem execToint_invalid {rs : Reg} {s : State} (hr : s.fsr.f = false) (h : s.v.read rs = .invalid) :
    execToint rs s = .next (raise .unwrittenRegister (encodeWord (.toint rs)) s) := by
  rw [execToint, unlessHalted_running hr, withSource_invalid h]

/-! ### What an instruction can do to a running unit -/

/-- The four ends of an instruction on a running unit. -/
inductive Ends (i : Instr) (s : State) : State → Prop where
  | wrote (rd : Reg) (x : Value) (h : destOf i = some rd) : Ends i s (respond .ok 0 (s.write rd x))
  | told (d : Bus) (h : destOf i = none) : Ends i s (respond .ok d s)
  | unwritten (rs : Reg) (h : sourceOf i = some rs) (hs : s.v.read rs = .invalid) :
      Ends i s (raise .unwrittenRegister (encodeWord i) s)
  | outside (rs : Reg) (x : Value) (h : sourceOf i = some rs) (hs : s.v.read rs = .valid x) (hd : destOf i = none) :
      Ends i s (raise .invalidIndex (encodeWord i) s)

/-- An instruction on a running unit has a next state, and it is one of the four ends. -/
theorem exec_running (i : Instr) {s : State} (hr : s.fsr.f = false) : ∃ t, exec i s = .next t ∧ Ends i s t := by
  cases i with
  | fromint rd sh n => exact ⟨_, execFromint_running hr, .wrote rd _ rfl⟩
  | toint rs =>
    rcases h : s.v.read rs with _ | x
    · exact ⟨_, execToint_invalid hr h, .unwritten rs rfl h⟩
    · exact ⟨_, execToint_valid hr h, .told _ rfl⟩
  | bitw sh => exact ⟨_, query_running hr, .told _ rfl⟩
  | inc rd rs =>
    rcases h : s.v.read rs with _ | x
    · exact ⟨_, compute_invalid hr h, .unwritten rs rfl h⟩
    · exact ⟨_, compute_valid hr h, .wrote rd _ rfl⟩
  | skip rd rs offset =>
    rcases h : s.v.read rs with _ | x
    · exact ⟨_, compute_invalid hr h, .unwritten rs rfl h⟩
    · exact ⟨_, compute_valid hr h, .wrote rd _ rfl⟩
  | numw32 sh => exact ⟨_, query_running hr, .told _ rfl⟩
  | numw64 sh => exact ⟨_, query_running hr, .told _ rfl⟩
  | getw32 rs idx =>
    rcases h : s.v.read rs with _ | x
    · exact ⟨_, readView_invalid hr h, .unwritten rs rfl h⟩
    · rcases hd : muxWord32 idx.toNat x with _ | d
      · exact ⟨_, readView_outside hr h hd, .outside rs x rfl h rfl⟩
      · exact ⟨_, readView_word hr h hd, .told _ rfl⟩
  | getw64 rs idx =>
    rcases h : s.v.read rs with _ | x
    · exact ⟨_, readView_invalid hr h, .unwritten rs rfl h⟩
    · rcases hd : muxWord64 idx.toNat x with _ | d
      · exact ⟨_, readView_outside hr h hd, .outside rs x rfl h rfl⟩
      · exact ⟨_, readView_word hr h hd, .told _ rfl⟩

/-- An instruction on a halted unit answers HALTED. -/
theorem exec_halted (i : Instr) {s : State} (h : s.fsr.f = true) : exec i s = .next (respond .halted 0 s) := by
  cases i <;> exact unlessHalted_halted h

/-- What an instruction can do: HALTED on a halted unit, one of the four ends on a running one. -/
theorem exec_cases (i : Instr) (s : State) :
    (s.fsr.f = true ∧ exec i s = .next (respond .halted 0 s)) ∨
      (s.fsr.f = false ∧ ∃ t, exec i s = .next t ∧ Ends i s t) := by
  rcases h : s.fsr.f with _ | _
  · exact .inr ⟨rfl, exec_running i h⟩
  · exact .inl ⟨rfl, exec_halted i h⟩

/-- What carrying out a command can do: the word is illegal, or the instruction it decodes to is executed. -/
theorem execute_cases (c : Command) (s : State) :
    (∃ i, decode c.cmd c.cmdInt = .ok i ∧ execute c s = exec i s) ∨
      (∃ r, decode c.cmd c.cmdInt = .error r ∧ execute c s = illegal c.cmd s) := by
  rcases h : decode c.cmd c.cmdInt with r | i
  · exact .inr ⟨r, rfl, by rw [execute, h]⟩
  · exact .inl ⟨i, rfl, by rw [execute, h]⟩

end Sys2Proof.Machine
end

