-- ==== Sys2Proof/Laws/PerInstr.lean ====
section
/-! SUPPORT. Facts about every instruction as syntax, one lemma per constructor. -/

namespace Sys2Proof.Laws.RowHit

/-- The word of an instruction matches the row of the opcode table that has its mnemonic (30_encoding.md R66). -/
def Statement (i : Instr) : Prop := ∃ r ∈ opcodeTable, r.mnemonic = i.mnemonic ∧ r.hits (encodeWord i) = true

theorem fromint (rd : Reg) (sh : Shape) (n : Int) : Statement (.fromint rd sh n) :=
  ⟨⟨"FROMINT", 0x1000, 0xF3FC⟩, by decide, rfl, by
    rw [show encodeWord (.fromint rd sh n) = encodeWord (.fromint rd sh 0) from rfl]
    cases rd <;> cases sh <;> decide⟩

theorem toint (rs : Reg) : Statement (.toint rs) :=
  ⟨⟨"TOINT", 0x2000, 0xFCFF⟩, by decide, rfl, by cases rs <;> decide⟩

theorem bitw (sh : Shape) : Statement (.bitw sh) :=
  ⟨⟨"BITW", 0x3000, 0xFFFC⟩, by decide, rfl, by cases sh <;> decide⟩

theorem inc (rd rs : Reg) : Statement (.inc rd rs) :=
  ⟨⟨"INC", 0x4000, 0xF0FF⟩, by decide, rfl, by cases rd <;> cases rs <;> decide⟩

theorem skip (rd rs : Reg) (offset : Int) : Statement (.skip rd rs offset) :=
  ⟨⟨"SKIP", 0x5000, 0xF0FF⟩, by decide, rfl, by
    rw [show encodeWord (.skip rd rs offset) = encodeWord (.skip rd rs 0) from rfl]
    cases rd <;> cases rs <;> decide⟩

theorem numw32 (sh : Shape) : Statement (.numw32 sh) :=
  ⟨⟨"NUMW32", 0x6000, 0xFFFC⟩, by decide, rfl, by cases sh <;> decide⟩

theorem numw64 (sh : Shape) : Statement (.numw64 sh) :=
  ⟨⟨"NUMW64", 0x7000, 0xFFFC⟩, by decide, rfl, by cases sh <;> decide⟩

theorem getw32 (rs : Reg) (idx : Idx) : Statement (.getw32 rs idx) :=
  ⟨⟨"GETW32", 0x8000, 0xFC00⟩, by decide, rfl, by revert idx; cases rs <;> decide⟩

theorem getw64 (rs : Reg) (idx : Idx) : Statement (.getw64 rs idx) :=
  ⟨⟨"GETW64", 0x9000, 0xFC00⟩, by decide, rfl, by revert idx; cases rs <;> decide⟩

end Sys2Proof.Laws.RowHit
end

