-- ==== Sys2Proof/Tests/Slice0.lean ====
section
/-! SUPPORT. Tests: expected results from spec/95_test_vectors.md and the worked examples of the rules, one step each;
and a witness for the hypotheses of every statement that has some. -/

namespace Sys2Proof.Tests

open Sys2Proof Sys2Proof.Machine

/-! ### Helpers -/

/-- The next state of an outcome. -/
def nextOf : Result → Option State
  | .next s => some s
  | .fault _ => none
  | .refused _ => none

/-- The response an outcome shows. -/
def shown (r : Result) : Option Response := (nextOf r).bind State.rsp

/-- A register after an outcome. -/
def regAfter (r : Result) (k : Reg) : Option RegContent := (nextOf r).map fun s => s.v.read k

/-- FSR after an outcome, as a number. -/
def fsrAfter (r : Result) : Option (BitVec 20) := (nextOf r).map fun s => s.fsr.bits

/-- Reset, with a value in v0. -/
def withV0 (x : Value) : State := State.reset.write .v0 x

/-- A unit halted by the word 0x8002, as program P4 leaves it. -/
def haltedUnit : State := raise .invalidIndex 0x8002 (withV0 (.w32 (.two 0 5)))

/-- The values of 95_test_vectors.md 2.5. -/
def sample2x32 : Value := .w32 (.two 0xAABBCCDD 0x11223344)
def sample4x32 : Value := .w32 (.four 0xAABBCCDD 0x11223344 0x55667788 0x99AABBCC)
def sample2x64 : Value := .w64 (.two 0x1122334455667788 0x99AABBCCDDEEFF00)
def sample4x64 : Value :=
  .w64 (.four 0x99AABBCCDDEEFF00 0x1122334455667788 0x0123456789ABCDEF 0xFEDCBA9876543210)

/-! ### WellFormed: an ill-formed term for each check -/

theorem test_wellFormed_fromint_negative : (Instr.fromint .v0 .s2x32 (-1)).wellFormed = false := by decide
theorem test_wellFormed_fromint_large : (Instr.fromint .v0 .s2x32 (2 ^ 256)).wellFormed = false := by decide
theorem test_wellFormed_skip_negative : (Instr.skip .v0 .v1 (-1)).wellFormed = false := by decide
theorem test_wellFormed_skip_large : (Instr.skip .v0 .v1 (2 ^ 256)).wellFormed = false := by decide
theorem test_wellFormed_skip_top : (Instr.skip .v0 .v1 (2 ^ 256 - 1)).wellFormed = true := by decide

/-! ### Decoding: words written out bit by bit from the encoding column of 30_encoding.md R66 -/

theorem test_decode_fromint : decode 0b0001110000000001 7 = .ok (.fromint .v3 .s4x32 7) := by decide
theorem test_decode_toint : decode 0b0010001100000000 0 = .ok (.toint .v3) := by decide
theorem test_decode_bitw : decode 0b0011000000000010 0 = .ok (.bitw .s2x64) := by decide
theorem test_decode_inc : decode 0b0100100100000000 0 = .ok (.inc .v2 .v1) := by decide
theorem test_decode_skip : decode 0b0101111000000000 9 = .ok (.skip .v3 .v2 9) := by decide
theorem test_decode_numw32 : decode 0b0110000000000011 0 = .ok (.numw32 .s4x64) := by decide
theorem test_decode_numw64 : decode 0b0111000000000001 0 = .ok (.numw64 .s4x32) := by decide
theorem test_decode_getw32 : decode 0b1000000100000111 0 = .ok (.getw32 .v1 7) := by decide
theorem test_decode_getw64 : decode 0b1001001111111111 0 = .ok (.getw64 .v3 255) := by decide
/-- 95_test_vectors.md 2.7: the one-bit neighbours. -/
theorem test_decode_neighbours :
    decode 0x300A 0 = .error .immNotZero ∧ decode 0x5E01 0 = .error .immNotZero ∧
    decode 0x6103 0 = .error .rsNotZero ∧ decode 0x7401 0 = .error .rdNotZero ∧
    decode 0x8907 0 = .error .rdNotZero ∧ decode 0x97FF 0 = .error .rdNotZero ∧
    decode 0x0000 0 = .error (.reservedOpcode 0) ∧ decode 0xFFFF 0 = .error (.reservedOpcode 0xF) := by decide
theorem test_decodeTableWord : decodeTableWord 16 0x4900 = some (.inc .v2 .v1) := by decide
theorem test_decodeTableWord_rejects : decodeTableWord 16 0xA000 = none := by decide

/-! ### The commands -/

/-- 40_fixedwidth.md R86, the example. -/
theorem test_fromint_example : regAfter (exec (.fromint .v0 .s2x32 0x0123456789ABCDEF) State.reset) .v0 =
    some (.valid (.w32 (.two 0x01234567 0x89ABCDEF))) := by decide
/-- 95_test_vectors.md 2.1: S2x64, −2^64. -/
theorem test_fromint_negative : regAfter (exec (.fromint .v2 .s2x64 (-2 ^ 64)) State.reset) .v2 =
    some (.valid (.w64 (.two 0xFFFFFFFFFFFFFFFF 0))) := by decide
/-- 40_fixedwidth.md R87, the example. -/
theorem test_toint_example : shown (exec (.toint .v0) (withV0 (.w32 (.two 1 0)))) = some ⟨.ok, 0x100000000⟩ := by decide
/-- 95_test_vectors.md 2.5: toInteger of the S4x64 value uses all 256 bits. -/
theorem test_toint_wide : shown (exec (.toint .v0) (withV0 sample4x64)) =
    some ⟨.ok, 0x99AABBCCDDEEFF0011223344556677880123456789ABCDEFFEDCBA9876543210⟩ := by decide
/-- 40_fixedwidth.md R88, the example. -/
theorem test_bitw_example : shown (exec (.bitw .s4x64) State.reset) = some ⟨.ok, 256⟩ := by decide
/-- 41_counter.md R103: the carry stops at the first element below its maximum. -/
theorem test_inc_carry_stops : regAfter (exec (.inc .v1 .v0) (withV0 (.w32 (.four 1 0xFFFFFFFF 0 0xFFFFFFFF)))) .v1 =
    some (.valid (.w32 (.four 1 0xFFFFFFFF 1 0))) := by decide
/-- 95_test_vectors.md E2: full wrap, in place. -/
theorem test_inc_wraps : regAfter (exec (.inc .v0 .v0) (withV0 (onesOf .s4x64))) .v0 =
    some (.valid (zeroOf .s4x64)) := by decide
/-- 95_test_vectors.md 2.4: a carry between elements. -/
theorem test_skip_adds : regAfter (exec (.skip .v0 .v0 0x0FEDCBA987654321) (withV0 (.w32 (.two 0x12345678 0x9ABCDEF0)))) .v0 =
    some (.valid (.w32 (.two 0x22222222 0x22222211))) := by decide
/-- 41_counter.md R104, the example: a negative offset wraps downward. -/
theorem test_skip_negative : regAfter (exec (.skip .v1 .v0 (-1)) (withV0 (zeroOf .s4x64))) .v1 =
    some (.valid (onesOf .s4x64)) := by decide
/-- 42_wordview.md R119, the example. -/
theorem test_numw32_example : shown (exec (.numw32 .s4x64) State.reset) = some ⟨.ok, 8⟩ := by decide
/-- 42_wordview.md R120, the example. -/
theorem test_numw64_example : shown (exec (.numw64 .s2x32) State.reset) = some ⟨.ok, 1⟩ := by decide
/-- 42_wordview.md R121, the example. -/
theorem test_getw32_example : shown (exec (.getw32 .v0 1) (withV0 sample2x64)) = some ⟨.ok, 0x55667788⟩ := by decide
/-- 42_wordview.md R123: index 8 is not word 0. -/
theorem test_getw32_index_8 : shown (exec (.getw32 .v0 8) (withV0 sample4x64)) = some ⟨.invalidIndex, 0⟩ := by decide
/-- 42_wordview.md R122, the example. -/
theorem test_getw64_example : shown (exec (.getw64 .v0 0) (withV0 sample2x32)) = some ⟨.ok, 0xAABBCCDD11223344⟩ := by
  decide
/-- 95_test_vectors.md 2.6: the first illegal index of S4x32 at 64 bits, and FSR after it. -/
theorem test_getw64_outside : fsrAfter (exec (.getw64 .v0 2) (withV0 sample4x32)) = some 0x90023 := by decide

/-! ### The carry chain and the multiplexer beside the formulas -/

/-- 95_test_vectors.md 2.4: the carries of (0,0,1,0) − 1 are 0, 1, 1, 1. -/
theorem test_skipChain_borrow : skipChain (-1) (.w32 (.four 0 0 1 0)) = .w32 (.four 0 0 0 0xFFFFFFFF) := by decide
/-- 95_test_vectors.md 2.5: words 2 and 3 of the S4x64 value at 32 bits (E3 with p = 1). -/
theorem test_mux_halves : muxWord32 2 sample4x64 = some 0x11223344 ∧ muxWord32 3 sample4x64 = some 0x55667788 := by decide
/-- 42_wordview.md R112: a negative index is InvalidIndex. -/
theorem test_getWord_negative : getWord .g32 (-1) sample4x64 = none := by decide

/-! ### Faults, halt, priority: 95_test_vectors.md 2.6 -/

theorem test_illegal_word : fsrAfter (execute ⟨0xFFFF, 0⟩ State.reset) = some 0xFFFF5 := by decide
theorem test_illegal_beats_unwritten : shown (execute ⟨0x84FF, 0⟩ State.reset) = some ⟨.illegalCommand, 0⟩ := by decide
theorem test_unwritten_beats_index : shown (execute ⟨0x81C8, 0⟩ State.reset) = some ⟨.unwrittenRegister, 0⟩ := by decide
theorem test_unwritten_inc_keeps_rd : regAfter (execute ⟨0x4400, 0⟩ State.reset) .v1 = some .invalid := by decide
theorem test_halted : shown (execute ⟨0x3000, 0⟩ haltedUnit) = some ⟨.halted, 0⟩ := by decide

/-! ### Step, fetch, reset -/

theorem test_step_runs_presented : shown (step (State.reset.withFetchWord 16 0x6003)) = some ⟨.ok, 8⟩ := by decide
theorem test_step_reset_event : (nextOf (step { haltedUnit with host := [.reset] })).map (fun s => (s.v, s.fsr)) =
    some (RegFile.reset, Fsr.reset) := by decide
theorem test_edge_reset : (nextOf (edge ⟨true, true, 0x3000, 0⟩ haltedUnit)).map (fun s => (s.v, s.fsr, s.inflight)) =
    some (RegFile.reset, Fsr.reset, none) := by decide

/-! ### The assembler: 30_encoding.md R70 to R75 -/

theorem test_asm_long_literal : assemble "SKIP v3, v2, #-0x1_0000_0000_0000_0000 ; borrow".toList =
    .command (.skip .v3 .v2 (-2 ^ 64)) := by decide
theorem test_asm_pseudo : assemble "ONES v1, S4x64".toList = .command (.fromint .v1 .s4x64 (-1)) := by decide
theorem test_asm_malformed : assemble "GETW32 v0, 256".toList = .malformed ∧ assemble "inc v0, v0".toList = .malformed ∧
    assemble "; only a comment".toList = .blank := by decide
/-- 95_test_vectors.md P6, step 9. -/
theorem test_listing : listCommand (.skip .v0 .v3 (-0x200000002)) =
    "0x5300 / 0xFFFFFFFFFFFFFFFFFFFFFFFFFFFFFFFFFFFFFFFFFFFFFFFFFFFFFFFDFFFFFFFE".toList := by decide

/-! ### Witnesses: a state and operands that meet the hypotheses of each statement together -/

theorem reset_inv : UnitInv State.reset :=
  ⟨by decide, fun _ h => absurd h (by simp [State.reset]), fun _ h => by simp [State.reset] at h, fun h => absurd rfl h⟩

/-- The state after `BITW S2x32` from reset: a response is shown. -/
def afterQuery : State := respond .ok 64 State.reset

theorem afterQuery_inv : UnitInv afterQuery :=
  ⟨by decide, by simp [afterQuery, State.reset], by simp [afterQuery, State.reset], fun h => absurd rfl h⟩

theorem witness_StepKeepsInvariant : ∃ s t, UnitInv s ∧ step s = .next t := ⟨State.reset, _, reset_inv, rfl⟩
theorem witness_ClockEdgeKeepsInvariant : ∃ (i : PinIn) (s t : State), UnitInv s ∧ edge i s = .next t :=
  ⟨⟨true, false, 0, 0⟩, State.reset, _, reset_inv, rfl⟩
theorem witness_StepRuns_presented : ∃ (s : State) (cmd : CmdWord) (int : Int) (es : List HostEvent) (i : Instr),
    s.inflight = none ∧ s.host = .command cmd int :: es ∧ decode cmd (busImage int) = .ok i :=
  ⟨State.reset.withFetchWord 16 0x3003, 0x3003, 0, [], .bitw .s4x64, rfl, rfl, by decide⟩
theorem witness_StepRuns_inflight : ∃ (s : State) (p : InFlight) (i : Instr),
    s.inflight = some p ∧ decode p.command.cmd p.command.cmdInt = .ok i :=
  ⟨{ State.reset with inflight := some ⟨⟨0x2000, 0⟩, 3⟩ }, ⟨⟨0x2000, 0⟩, 3⟩, .toint .v0, rfl, by decide⟩
theorem witness_StepRuns_illegal : ∃ (s : State) (cmd : CmdWord) (int : Int) (es : List HostEvent) (r : Reject),
    s.inflight = none ∧ s.host = .command cmd int :: es ∧ decode cmd (busImage int) = .error r :=
  ⟨State.reset.withFetchWord 16 0xA000, 0xA000, 0, [], .reservedOpcode 0xA, rfl, rfl, by decide⟩
theorem witness_StepRuns_inflight_illegal : ∃ (s : State) (p : InFlight) (r : Reject),
    s.inflight = some p ∧ decode p.command.cmd p.command.cmdInt = .error r :=
  ⟨{ State.reset with inflight := some ⟨⟨0x2B00, 0⟩, 3⟩ }, ⟨⟨0x2B00, 0⟩, 3⟩, .rdNotZero, rfl, by decide⟩
theorem witness_StepRuns_idle : afterQuery.inflight = none ∧ afterQuery.host = [] ∧ afterQuery.rsp ≠ none := by decide
theorem witness_ResetEvent : ∃ (s : State) (es : List HostEvent), s.inflight = none ∧ s.host = .reset :: es ∧
    s.fsr.f = true ∧ s.v.read .v0 ≠ .invalid :=
  ⟨{ haltedUnit with host := [.reset, .command 0x3000 0] }, [.command 0x3000 0], rfl, rfl, rfl, by decide⟩
/-- Both disjuncts of the hypothesis: a command in flight before a reset, and a command next. -/
theorem witness_StepsWithoutReset : ∃ s s' t t' : State, s.inflight ≠ none ∧ s.host.head? = some .reset ∧
    step s = .next t ∧ s'.inflight = none ∧ s'.host.head? ≠ some .reset ∧ step s' = .next t' ∧ s'.fsr.f = true ∧
    s'.v.read .v0 ≠ .invalid :=
  ⟨{ State.reset with inflight := some ⟨⟨0x2000, 0⟩, 0⟩, host := [.reset] }, haltedUnit.withFetchWord 16 0x3000, _, _,
    by decide, rfl, rfl, rfl, by decide, rfl, rfl, by decide⟩
theorem witness_IdleEdge : haltedUnit.inflight = none ∧ (⟨false, false, 0xFFFF, 7⟩ : PinIn).rst = false ∧
    (⟨false, false, 0xFFFF, 7⟩ : PinIn).cmdValid = false := by decide
theorem witness_ClockEdge : (⟨false, true, 0x3000, 0⟩ : PinIn).rst = false ∧ haltedUnit.inflight = none ∧
    (⟨false, true, 0x3000, 0⟩ : PinIn).cmdValid = true ∧
    ({ haltedUnit with inflight := some ⟨⟨0x3000, 0⟩, 0 + 1⟩ } : State).inflight = some ⟨⟨0x3000, 0⟩, 0 + 1⟩ ∧
    ({ haltedUnit with inflight := some ⟨⟨0x3000, 0⟩, 0⟩ } : State).inflight = some ⟨⟨0x3000, 0⟩, 0⟩ := by decide
theorem witness_DecodeOfEncode : (Instr.fromint .v3 .s4x64 (2 ^ 256 - 1)).wellFormed = true := by decide
theorem witness_EncodeOfDecode : decode 0x5500 (BitVec.allOnes 256) = .ok (.skip .v1 .v1 (2 ^ 256 - 1)) ∧
    usesBus (.skip .v1 .v1 (2 ^ 256 - 1)) = true := by decide
theorem witness_DecoderAccepts : decode 0x93FF 0 = .ok (.getw64 .v3 255) ∧
    ∃ r ∈ opcodeTable, (0x93FF : CmdWord) &&& r.mask = r.pattern := by decide
theorem witness_IntegerBus : (-1 : Int) < 0 ∧ (- -1 : Int) % 2 ^ 256 ≠ 0 := by decide
theorem witness_PresentedInstruction : usesBus (.skip .v0 .v0 (-1)) = true ∧
    encodeBus (.skip .v0 .v0 (-1)) = BitVec.allOnes 256 ∧ usesBus (.toint .v0) = false := by decide
theorem witness_ConversionsRoundTrip : 2 ^ 64 - 1 < 2 ^ bitWidth .s2x32 ∧
    sample2x32.shape = (Value.w32 (.two 0xAABBCCDD 0x11223344)).shape ∧
    sample2x32.toInteger = (Value.w32 (.two 0xAABBCCDD 0x11223344)).toInteger := by decide
theorem witness_Unpacker : (2 ^ bitWidth .s2x32 : Int) ∣ 2 ^ 64 - 0 ∧
    (BitVec.toNat (5 : Bus)) % 2 ^ bitWidth .s2x32 = (BitVec.toNat (0x10000000000000005 : Bus)) % 2 ^ bitWidth .s2x32 := by decide
theorem witness_ElementBits : sample2x32.elemNats[1]? = some 0x11223344 ∧ 31 < sample2x32.shape.width ∧
    sample4x64.elemNats[0]? = some 0x99AABBCCDDEEFF00 ∧ 63 < sample4x64.shape.width := by decide
theorem witness_SkipLaws : (2 ^ bitWidth sample2x32.shape : Int) ∣ -2 ^ 64 - 2 ^ 64 := by decide
theorem witness_ViewsReconstruct : getWord .g64 ((1 : Nat) : Int) sample4x32 = some 0x5566778899AABBCC := by decide
theorem witness_CrossWidth :
    (Tuple.two 0x1122334455667788 0x99AABBCCDDEEFF00 : Tuple 64).elems[1]? = some 0x99AABBCCDDEEFF00 ∧
    (Tuple.two 0xAABBCCDD 0x11223344 : Tuple 32).elems[2 * 0]? = some 0xAABBCCDD ∧
    (Tuple.two 0xAABBCCDD 0x11223344 : Tuple 32).elems[2 * 0 + 1]? = some 0x11223344 := by decide
theorem witness_Fromint : Safe State.reset := by decide
theorem witness_Toint_Inc_Skip : Safe (withV0 sample4x64) ∧ (withV0 sample4x64).v.read .v0 = .valid sample4x64 := by decide
/-- The last index in bounds of the widest and of the narrowest view, and the first outside. -/
theorem witness_Getw32 : Safe (withV0 sample4x64) ∧ (withV0 sample4x64).v.read .v0 = .valid sample4x64 ∧
    (7 : Idx).toNat < numWords sample4x64.shape .g32 ∧ numWords sample4x64.shape .g32 ≤ (8 : Idx).toNat := by decide
theorem witness_Getw64 : Safe (withV0 sample2x32) ∧ (withV0 sample2x32).v.read .v0 = .valid sample2x32 ∧
    (0 : Idx).toNat < numWords sample2x32.shape .g64 ∧ numWords sample2x32.shape .g64 ≤ (1 : Idx).toNat := by decide
theorem witness_IncAndSkipOne : (withV0 sample2x32).v.read .v0 ≠ .invalid ∧ haltedUnit.fsr.f = true ∧
    State.reset.v.read .v0 = .invalid ∧ Safe State.reset := by decide
theorem witness_Pseudo : Safe (withV0 (zeroOf .s2x64)) ∧ (withV0 (zeroOf .s2x64)).v.read .v0 = .valid (zeroOf .s2x64) ∧
    (withV0 (zeroOf .s2x64)).v.read .v1 = .invalid ∧ zeroOf .s2x64 = zeroOf (zeroOf .s2x64).shape := by decide
theorem witness_UnmatchedWord : Safe State.reset ∧ ∀ r ∈ opcodeTable, (0xFFFF : CmdWord) &&& r.mask ≠ r.pattern := by
  decide
theorem witness_InvalidSource : Safe State.reset ∧ sourceOf (.inc .v1 .v0) = some .v0 ∧
    State.reset.v.read .v0 = .invalid := by decide
theorem witness_IndexOutside : Safe (withV0 sample2x64) ∧ (withV0 sample2x64).v.read .v0 = .valid sample2x64 ∧
    numWords sample2x64.shape .g32 ≤ (4 : Idx).toNat ∧ numWords sample2x64.shape .g64 ≤ (2 : Idx).toNat := by decide
theorem witness_Halted : ¬ Safe haltedUnit := by decide
theorem witness_FaultsArePrecise : ∃ (t : State) (r : Response), execute ⟨0x2000, 0⟩ State.reset = .next t ∧
    t.rsp = some r ∧ r.status ≠ .ok := ⟨_, ⟨.unwrittenRegister, 0⟩, rfl, rfl, by decide⟩
theorem witness_FrameOfReading : ∃ t d, destOf (.toint .v0) = none ∧ exec (.toint .v0) (withV0 sample2x32) = .next t ∧
    t.rsp = some ⟨.ok, d⟩ := ⟨_, _, rfl, rfl, rfl⟩
theorem witness_FrameOfWriting : ∃ t d, destOf (.inc .v1 .v0) = some .v1 ∧
    exec (.inc .v1 .v0) (withV0 sample2x32) = .next t ∧ t.rsp = some ⟨.ok, d⟩ := ⟨_, _, rfl, rfl, rfl⟩
theorem witness_OnlyReset : ∃ (i : PinIn) (t : State), i.rst = false ∧ edge i haltedUnit = .next t ∧
    haltedUnit.fsr.f = true ∧ haltedUnit.v.read .v0 ≠ .invalid :=
  ⟨⟨false, false, 0, 0⟩, _, rfl, rfl, rfl, by decide⟩
theorem witness_BusyUnit : ({ State.reset with inflight := some ⟨⟨0x2000, 0⟩, 1⟩ } : State).busy = true := by decide
theorem witness_ResponseShown : ∃ (i : PinIn) (t : State), UnitInv afterQuery ∧ afterQuery.rsp = some ⟨.ok, 64⟩ ∧
    edge i afterQuery = .next t := ⟨⟨true, false, 0, 0⟩, _, afterQuery_inv, rfl, rfl⟩
theorem witness_ResetAbandons : State.reset.inflight = none ∧ (⟨true, false, 0, 0⟩ : PinIn).rst = true ∧
    (∀ j ∈ ([] : List PinIn), j.rst = false) ∧ ([] : List PinIn).length < latency ⟨0x3000, 0⟩ State.reset :=
  ⟨rfl, rfl, by simp, Nat.succ_pos _⟩
theorem witness_PinsRefine : State.reset.inflight = none ∧
    (∀ j ∈ List.replicate (latency (presented 0x2000 0) State.reset) (⟨false, false, 0, 0⟩ : PinIn), j.rst = false) ∧
    (List.replicate (latency (presented 0x2000 0) State.reset) (⟨false, false, 0, 0⟩ : PinIn)).length =
      latency (presented 0x2000 0) State.reset :=
  ⟨rfl, fun j h => by rw [List.eq_of_mem_replicate h], List.length_replicate⟩

end Sys2Proof.Tests
end

section
/-! What carrying out a command and what one step do, said once per branch (30_encoding.md R58, R67, R68;
60_exceptions.md R148). -/

namespace Sys2Proof.Machine

/-- A word that decodes is carried out as its instruction (30_encoding.md R58). -/
theorem execute_of_decode_ok {c : Command} {i : Instr} (s : State) (h : decode c.cmd c.cmdInt = .ok i) :
    execute c s = exec i s := by rw [execute, h]

/-- A word that does not decode is IllegalCommand (30_encoding.md R67, R68). -/
theorem execute_of_decode_error {c : Command} {r : Reject} (s : State) (h : decode c.cmd c.cmdInt = .error r) :
    execute c s = illegal c.cmd s := by rw [execute, h]

theorem step_of_inflight {s : State} {p : InFlight} (h : s.inflight = some p) :
    step s = execute p.command (tick s) := by
  simp only [step, transact, tick_inflight, h]

theorem step_of_event {s : State} {e : HostEvent} {es : List HostEvent} (hi : s.inflight = none)
    (hh : s.host = e :: es) : step s = perform e { tick s with host := es } := by
  simp only [step, transact, tick_inflight, tick_host, hi, hh]

theorem step_of_no_event {s : State} (hi : s.inflight = none) (hh : s.host = []) : step s = .next (idle (tick s)) := by
  simp only [step, transact, tick_inflight, tick_host, hi, hh]

/-- Accepting a presented command and carrying it out is one step. -/
theorem step_of_command {s : State} {cmd : CmdWord} {int : Int} {es : List HostEvent} (hi : s.inflight = none)
    (hh : s.host = .command cmd int :: es) :
    step s = execute (presented cmd int) (accept (presented cmd int) { tick s with host := es }) := by
  rw [step_of_event hi hh, perform]

/-- Settles O5: the branch of the step, then the branch of the decoder. -/
theorem stepRunsTheDecodedInstruction : Obligations.StepRunsTheDecodedInstruction := by
  refine ⟨?presented, ?inflight, ?presentedIllegal, ?inflightIllegal, ?idle⟩
  case presented =>
    intro s cmd int es i hi hh hd
    rw [step_of_command hi hh]
    exact execute_of_decode_ok _ hd
  case inflight =>
    intro s p i hp hd
    rw [step_of_inflight hp, execute_of_decode_ok _ hd]
  case presentedIllegal =>
    intro s cmd int es r hi hh hd
    rw [step_of_command hi hh]
    exact execute_of_decode_error _ hd
  case inflightIllegal =>
    intro s p r hp hd
    rw [step_of_inflight hp, execute_of_decode_error _ hd]
  case idle =>
    intro s hi hh
    rw [step_of_no_event hi hh, idle, tick]

end Sys2Proof.Machine
end

section
/-! What can end a command and what a clock edge does, said once per branch (60_exceptions.md R132, R139;
70_reset_and_hazards.md R155 to R161). -/

namespace Sys2Proof.Machine

/-- A next state of an instruction is the HALTED answer or one of the four ends of a running unit. -/
theorem exec_next_cases {i : Instr} {s t : State} (h : exec i s = .next t) : t = respond .halted 0 s ∨ Ends i s t := by
  obtain ⟨-, he⟩ | ⟨-, u, he, hu⟩ := exec_cases i s
  · cases he.symm.trans h
    exact .inl rfl
  · cases he.symm.trans h
    exact .inr hu

/-- A next state of an illegal word is the HALTED answer or the fault IllegalCommand (60_exceptions.md R132, R139). -/
theorem illegal_next_cases {w : CmdWord} {s t : State} (h : illegal w s = .next t) :
    t = respond .halted 0 s ∨ t = raise .illegalCommand w s := by
  rcases hf : s.fsr.f with _ | _
  · cases (unlessHalted_running hf).symm.trans h
    exact .inr rfl
  · cases (unlessHalted_halted hf).symm.trans h
    exact .inl rfl

section Edge
variable {i : PinIn} {s : State}

theorem edge_of_rst (hr : i.rst = true) : edge i s = .next (resetUnit (tick s)) := by
  simp only [edge, clocked, hr, if_true]

theorem edge_of_inflight {p : InFlight} (hr : i.rst = false) (hp : s.inflight = some p) :
    edge i s = advance p (tick s) := by
  simp [edge, clocked, hr, hp]

theorem edge_of_command (hr : i.rst = false) (hi : s.inflight = none) (hv : i.cmdValid = true) :
    edge i s = .next (accept ⟨i.cmd, i.cmdInt⟩ (tick s)) := by
  simp [edge, clocked, hr, hi, hv]

theorem edge_of_no_command (hr : i.rst = false) (hi : s.inflight = none) (hv : i.cmdValid = false) :
    edge i s = .next (idle (tick s)) := by
  simp [edge, clocked, hr, hi, hv]

end Edge

end Sys2Proof.Machine
end

section
/-! The invariant of the unit: which updates of the state keep it, then that it holds at reset and that every step and
every clock edge keeps it. -/

namespace Sys2Proof.Machine

/-! ### Updates that show no response -/

/-- A unit that shows no response needs a legal FSR and legal responses only. -/
theorem unitInv_of_rsp_none {s : State} (hfsr : FsrLegal s.fsr) (hresp : ∀ r ∈ s.responses, ResponseLegal r)
    (hrsp : s.rsp = none) : UnitInv s where
  fsr := hfsr
  responses := hresp
  shown r hr := by simp [hrsp] at hr
  quiet _ := hrsp

theorem fsrLegal_reset : FsrLegal Fsr.reset := by decide

/-- FSR after a fault is legal: F is 1, so CAUSE must not be 0, and CMD is free (10_state.md R30). -/
theorem fsrLegal_fault (k : FaultKind) (w : CmdWord) : FsrLegal ⟨true, k.cause, w⟩ := by
  have hcause : k.cause ≠ .none := by cases k <;> decide
  exact ⟨by simp [hcause], by simp⟩

theorem unitInv_reset : UnitInv State.reset :=
  unitInv_of_rsp_none fsrLegal_reset (fun _ hr => absurd hr List.not_mem_nil) rfl

section Keeps
variable {s : State} (h : UnitInv s)
include h

theorem unitInv_tick : UnitInv (tick s) := ⟨h.fsr, h.responses, h.shown, h.quiet⟩

theorem unitInv_host (es : List HostEvent) : UnitInv { s with host := es } := ⟨h.fsr, h.responses, h.shown, h.quiet⟩

theorem unitInv_write (rd : Reg) (x : Value) : UnitInv (s.write rd x) := ⟨h.fsr, h.responses, h.shown, h.quiet⟩

theorem unitInv_resetUnit : UnitInv (resetUnit s) := unitInv_of_rsp_none fsrLegal_reset h.responses rfl

theorem unitInv_idle : UnitInv (idle s) := unitInv_of_rsp_none h.fsr h.responses rfl

theorem unitInv_accept (c : Command) : UnitInv (accept c s) := unitInv_of_rsp_none h.fsr h.responses rfl

/-! ### Responses and faults -/

/-- A legal response keeps the invariant: it becomes the last one issued, and no command stays in flight. -/
theorem unitInv_respond {st : Status} {d : Bus} (hr : ResponseLegal ⟨st, d⟩) : UnitInv (respond st d s) where
  fsr := h.fsr
  responses r hm := by
    rcases List.mem_append.mp hm with hm | hm
    · exact h.responses r hm
    · rw [List.mem_singleton.mp hm]
      exact hr
  shown r hs := by
    rw [respond_responses, List.getLast?_concat, ← hs, respond_rsp]
  quiet hq := absurd rfl hq

/-- Fault entry keeps the invariant, whatever FSR held before (60_exceptions.md R137). -/
theorem unitInv_raise (k : FaultKind) (w : CmdWord) : UnitInv (raise k w s) :=
  have hf : UnitInv { s with fsr := ⟨true, k.cause, w⟩ } := ⟨fsrLegal_fault k w, h.responses, h.shown, h.quiet⟩
  unitInv_respond hf fun _ => rfl

theorem unitInv_halted : UnitInv (respond .halted 0 s) := unitInv_respond h fun _ => rfl

/-! ### Commands -/

theorem unitInv_ends {i : Instr} {t : State} (he : Ends i s t) : UnitInv t := by
  cases he with
  | wrote rd x _ => exact unitInv_respond (unitInv_write h rd x) fun _ => rfl
  | told d _ => exact unitInv_respond h fun hok => absurd rfl hok
  | unwritten rs _ _ => exact unitInv_raise h _ _
  | outside rs x _ _ _ => exact unitInv_raise h _ _

theorem unitInv_execute {c : Command} {t : State} (he : execute c s = .next t) : UnitInv t := by
  obtain ⟨i, -, hx⟩ | ⟨r, -, hx⟩ := execute_cases c s
  · obtain rfl | hends := exec_next_cases (hx ▸ he)
    · exact unitInv_halted h
    · exact unitInv_ends h hends
  · obtain rfl | rfl := illegal_next_cases (hx ▸ he)
    · exact unitInv_halted h
    · exact unitInv_raise h _ _

theorem unitInv_perform {e : HostEvent} {t : State} (he : perform e s = .next t) : UnitInv t := by
  cases e with
  | command cmd int => exact unitInv_execute (unitInv_accept h _) he
  | reset =>
    cases he
    exact unitInv_resetUnit h

theorem unitInv_advance {p : InFlight} {t : State} (ha : advance p s = .next t) : UnitInv t := by
  obtain ⟨c, _ | n⟩ := p
  · exact unitInv_execute h ha
  · cases ha
    exact unitInv_of_rsp_none h.fsr h.responses rfl

end Keeps

/-- Settles O2. -/
theorem invariantHoldsAtReset : Obligations.InvariantHoldsAtReset := unitInv_reset

/-- Settles O3: the command in flight is finished, or the host's next event carried through, or the unit idles, and each
keeps the invariant. -/
theorem stepKeepsInvariant : Obligations.StepKeepsInvariant := by
  intro s t h hst
  rcases hi : s.inflight with _ | p
  · rcases hh : s.host with _ | ⟨e, es⟩
    · cases (step_of_no_event hi hh).symm.trans hst
      exact unitInv_idle (unitInv_tick h)
    · exact unitInv_perform (unitInv_host (unitInv_tick h) es) (step_of_event hi hh ▸ hst)
  · exact unitInv_execute (unitInv_tick h) (step_of_inflight hi ▸ hst)

/-- Settles O4: the edge resets, or advances the command in flight, or accepts one, or idles. -/
theorem clockEdgeKeepsInvariant : Obligations.ClockEdgeKeepsInvariant := by
  intro i s t h hst
  rcases hr : i.rst with _ | _
  · rcases hi : s.inflight with _ | p
    · rcases hv : i.cmdValid with _ | _
      · cases (edge_of_no_command hr hi hv).symm.trans hst
        exact unitInv_idle (unitInv_tick h)
      · cases (edge_of_command hr hi hv).symm.trans hst
        exact unitInv_accept (unitInv_tick h) _
    · exact unitInv_advance (unitInv_tick h) (edge_of_inflight hr hi ▸ hst)
  · cases (edge_of_rst hr).symm.trans hst
    exact unitInv_resetUnit (unitInv_tick h)

end Sys2Proof.Machine
end

section
/-! Frames of the instructions (10_state.md R29, 20_memory.md R47): what an instruction leaves unchanged, from the ends it
can have. -/

namespace Sys2Proof.Machine

theorem faultKind_status_ne_ok (k : FaultKind) : k.status ≠ .ok := by cases k <;> decide

section Frames
variable {i : Instr} {s t : State} (h : exec i s = .next t)
include h

theorem exec_host_fresh_inflight : t.host = s.host ∧ t.fresh = s.fresh ∧ t.inflight = none := by
  obtain rfl | he := exec_next_cases h
  · exact ⟨rfl, rfl, rfl⟩
  · cases he <;> exact ⟨rfl, rfl, rfl⟩

/-- With the response OK nothing of FSR changes, and a command with a destination answers 0 (30_encoding.md R59). -/
theorem exec_ok {d : Bus} (hok : t.rsp = some ⟨.ok, d⟩) : t.fsr = s.fsr ∧ (destOf i ≠ none → d = 0) := by
  obtain rfl | he := exec_next_cases h
  · simp at hok
  · cases he with
    | wrote rd x _ => exact ⟨rfl, fun _ => by simpa using hok.symm⟩
    | told _ hd => exact ⟨rfl, fun hne => absurd hd hne⟩
    | unwritten | outside => simp [faultKind_status_ne_ok] at hok

/-- The register file is kept, or the destination alone is written. -/
theorem exec_v : t.v = s.v ∨ ∃ rd x, destOf i = some rd ∧ t.v = s.v.write rd x := by
  obtain rfl | he := exec_next_cases h
  · exact .inl rfl
  · cases he with
    | wrote rd x hd => exact .inr ⟨rd, x, hd, rfl⟩
    | told | unwritten | outside => exact .inl rfl

end Frames

/-- Settles O44: without a destination there is nothing to write. -/
theorem frameOfReadingCommands : Obligations.FrameOfReadingCommands := by
  intro i s t hd h
  obtain ⟨hhost, hfresh, hinflight⟩ := exec_host_fresh_inflight h
  refine ⟨?_, hhost, hfresh, hinflight, fun d hok => (exec_ok h hok).1⟩
  obtain hv | ⟨rd, x, hw, -⟩ := exec_v h
  · exact hv
  · cases hd.symm.trans hw

/-- Settles O45: what is written is the destination, and a register read after a write to another is as before. -/
theorem frameOfWritingCommands : Obligations.FrameOfWritingCommands := by
  intro i rd s t hd h
  obtain ⟨hhost, hfresh, hinflight⟩ := exec_host_fresh_inflight h
  refine ⟨?others, hhost, hfresh, hinflight, fun d hok => ?ok⟩
  case others =>
    intro r hr
    obtain hv | ⟨rd', x, hw, hv⟩ := exec_v h
    · rw [hv]
    · cases hd.symm.trans hw
      rw [hv, read_write_other _ _ hr]
  case ok =>
    obtain ⟨hfsr, hzero⟩ := exec_ok h hok
    exact ⟨hfsr, hzero (by simp [hd])⟩

end Sys2Proof.Machine
end

section
/-! The bit string of a value (10_state.md R22) and the bits of FSR (10_state.md R30, R31). -/

namespace Sys2Proof.Machine

/-! ### Elements in the bit string -/

section ShiftedSum
variable {w : Nat}

theorem shiftedSum_cons (e : NativeWord w) (es : List (NativeWord w)) :
    shiftedSum (e :: es) = 2 ^ (w * es.length) * e.toNat + shiftedSum es := by
  rw [shiftedSum, Nat.shiftLeft_eq, Nat.mul_comm]

theorem shiftedSum_lt (es : List (NativeWord w)) : shiftedSum es < 2 ^ (w * es.length) := by
  induction es with
  | nil => simp [shiftedSum]
  | cons e es ih =>
    calc shiftedSum (e :: es)
      _ < 2 ^ (w * es.length) * (e.toNat + 1) := by rw [shiftedSum_cons, Nat.mul_succ]; omega
      _ ≤ 2 ^ (w * es.length) * 2 ^ w := Nat.mul_le_mul_left _ e.isLt
      _ = 2 ^ (w * (e :: es).length) := by rw [← Nat.pow_add, List.length_cons, Nat.mul_succ]

/-- Bit `j` of the element at place `i` from the left, `w` bits to a place. The head lies above the sum of the tail, and
the places of the tail count from the same right end. -/
theorem testBit_shiftedSum {es : List (NativeWord w)} {i j : Nat} {e : NativeWord w} (he : es[i]? = some e)
    (hj : j < w) : (shiftedSum es).testBit (w * (es.length - 1 - i) + j) = e.toNat.testBit j := by
  induction es generalizing i with
  | nil => simp at he
  | cons a es ih =>
    rw [shiftedSum_cons, Nat.testBit_two_pow_mul_add _ (shiftedSum_lt es)]
    cases i with
    | zero =>
      obtain rfl : a = e := by simpa using he
      simp
    | succ i =>
      rw [List.getElem?_cons_succ] at he
      have hi : i < es.length := (List.getElem?_eq_some_iff.mp he).1
      have hplace : (a :: es).length - 1 - (i + 1) = es.length - 1 - i := by simp only [List.length_cons]; omega
      have hbelow : w * (es.length - 1 - i) + j < w * es.length :=
        calc w * (es.length - 1 - i) + j
          _ < w * (es.length - 1 - i + 1) := by rw [Nat.mul_succ]; omega
          _ ≤ w * es.length := Nat.mul_le_mul_left w (by omega)
      rw [hplace, if_pos hbelow, ih he]

end ShiftedSum

@[simp] theorem shape_width_w32 (t : Tuple 32) : (Value.w32 t).shape.width = 32 := by cases t <;> rfl

@[simp] theorem shape_width_w64 (t : Tuple 64) : (Value.w64 t).shape.width = 64 := by cases t <;> rfl

@[simp] theorem shape_arity_w32 (t : Tuple 32) : (Value.w32 t).shape.arity = t.elems.length := by cases t <;> rfl

@[simp] theorem shape_arity_w64 (t : Tuple 64) : (Value.w64 t).shape.arity = t.elems.length := by cases t <;> rfl

/-- An element as a number is an element word. -/
theorem getElem?_map_toNat {w : Nat} {es : List (NativeWord w)} {i n : Nat}
    (h : (es.map BitVec.toNat)[i]? = some n) : ∃ e, es[i]? = some e ∧ e.toNat = n := by
  simpa using h

/-- Settles O17, from the bits of the shifted sum at either width. -/
theorem elementBitsInTheBitString : Obligations.ElementBitsInTheBitString := by
  intro x i j n hn hj
  cases x with
  | w32 t =>
    obtain ⟨e, he, rfl⟩ := getElem?_map_toNat hn
    rw [shape_width_w32] at hj ⊢
    rw [shape_arity_w32]
    exact testBit_shiftedSum he hj
  | w64 t =>
    obtain ⟨e, he, rfl⟩ := getElem?_map_toNat hn
    rw [shape_width_w64] at hj ⊢
    rw [shape_arity_w64]
    exact testBit_shiftedSum he hj

/-! ### The bits of FSR -/

theorem fsr_bits_toNat (r : Fsr) : r.bits.toNat = r.cmd.toNat * 16 + r.cause.code.toNat * 2 + r.f.toNat := by
  rw [Fsr.bits, append_toNat, append_toNat, BitVec.toNat_ofBool]
  omega

theorem fsr_bits_f (r : Fsr) : r.bits.getLsbD 0 = r.f := by
  have hodd : r.bits.toNat % 2 = r.f.toNat := by
    have := r.f.toNat_le
    rw [fsr_bits_toNat]
    omega
  rw [BitVec.getLsbD, Nat.testBit_zero, hodd]
  cases r.f <;> rfl

theorem fsr_bits_cause (r : Fsr) : r.bits.extractLsb' 1 3 = r.cause.code := by
  apply BitVec.eq_of_toNat_eq
  have := r.cause.code.isLt; have := r.f.toNat_le
  rw [BitVec.extractLsb'_toNat, fsr_bits_toNat, Nat.shiftRight_eq_div_pow]
  omega

theorem fsr_bits_cmd (r : Fsr) : r.bits.extractLsb' 4 16 = r.cmd := by
  apply BitVec.eq_of_toNat_eq
  have := r.cmd.isLt; have := r.cause.code.isLt; have := r.f.toNat_le
  rw [BitVec.extractLsb'_toNat, fsr_bits_toNat, Nat.shiftRight_eq_div_pow]
  omega

/-- Settles O43: FSR as a number, and each fault pin as its bit field. -/
theorem fsrLayoutAndFaultPins : Obligations.FsrLayoutAndFaultPins :=
  ⟨fsr_bits_toNat, fun _ s => ⟨(fsr_bits_f s.fsr).symm, (fsr_bits_cause s.fsr).symm, (fsr_bits_cmd s.fsr).symm⟩⟩

end Sys2Proof.Machine
end

section
/-! The decoder and the encoder (30_encoding.md R55, R56, R61, R66 to R68): the opcode and the format of an instruction,
the words a format admits, and the operands read from the ports. The decoder is said once, in `decode_eq_ok_iff`. -/

namespace Sys2Proof

/-! ### Opcode, format and operands of an instruction -/

/-- The opcode of an instruction (30_encoding.md R66); the encoder puts it in `op` (`encodeWord_fits`). -/
def Instr.opcode : Instr → BitVec 4
  | .fromint _ _ _ => 1
  | .toint _ => 2
  | .bitw _ => 3
  | .inc _ _ => 4
  | .skip _ _ _ => 5
  | .numw32 _ => 6
  | .numw64 _ => 7
  | .getw32 _ _ => 8
  | .getw64 _ _ => 9

/-- The format of an instruction (30_encoding.md R56); the decoder checks it (`decode_of_opcode`). -/
def Instr.format : Instr → Format
  | .fromint _ _ _ => formatRI
  | .toint _ => formatR
  | .bitw _ => formatQ
  | .inc _ _ => formatRR
  | .skip _ _ _ => formatRRI
  | .numw32 _ => formatQ
  | .numw64 _ => formatQ
  | .getw32 _ _ => formatRX
  | .getw64 _ _ => formatRX

/-- The instruction of the same command whose operands stand in the word and on the bus; the decoder answers it
(`decode_of_opcode`). -/
def Instr.withFields (w : CmdWord) (b : Bus) : Instr → Instr
  | .fromint _ _ _ => .fromint (regOfNum (rdField w)) (shapeOfTag (tagField w)) b.toNat
  | .toint _ => .toint (regOfNum (rsField w))
  | .bitw _ => .bitw (shapeOfTag (tagField w))
  | .inc _ _ => .inc (regOfNum (rdField w)) (regOfNum (rsField w))
  | .skip _ _ _ => .skip (regOfNum (rdField w)) (regOfNum (rsField w)) b.toNat
  | .numw32 _ => .numw32 (shapeOfTag (tagField w))
  | .numw64 _ => .numw64 (shapeOfTag (tagField w))
  | .getw32 _ _ => .getw32 (regOfNum (rsField w)) (immField w)
  | .getw64 _ _ => .getw64 (regOfNum (rsField w)) (immField w)

/-- The instruction with the number on the bus as its integer operand, if it has one; its own word decodes to it
(`decode_encodeWord`). -/
def Instr.withBus (b : Bus) : Instr → Instr
  | .fromint rd sh _ => .fromint rd sh b.toNat
  | .skip rd rs _ => .skip rd rs b.toNat
  | i => i

/-! ### The words a format admits (30_encoding.md R68) -/

/-- Every field the format does not use is zero. -/
def Format.Admits (f : Format) (w : CmdWord) : Prop :=
  (f.rd = false → rdField w = 0) ∧ (f.rs = false → rsField w = 0) ∧ immLegal f.imm w = true

theorem checked_eq_ok_iff {f : Format} {w : CmdWord} {i j : Instr} :
    checked f w i = .ok j ↔ f.Admits w ∧ i = j := by
  unfold checked Format.Admits
  split_ifs <;> simp_all

/-- The word has the opcode of the instruction, and its format admits the word. -/
abbrev Instr.Fits (i : Instr) (w : CmdWord) : Prop := opField w = i.opcode ∧ i.format.Admits w

theorem tagImm_of_immLegal {w : CmdWord} (h : immLegal .tag w = true) :
    tagImm (shapeOfTag (tagField w)) = immField w := by
  rw [immLegal, beq_iff_eq, immHighField_eq] at h
  rw [tagField_eq, tagImm_shapeOfTag _ h]

/-! ### The decoder -/

/-- The decoder's arm of a command: its format is checked, its operands are read. -/
theorem decode_of_opcode {w : CmdWord} {i : Instr} (b : Bus) (h : opField w = i.opcode) :
    decode w b = checked i.format w (i.withFields w b) := by
  cases i <;> (rw [decode, h]; rfl)

/-- A word decodes to an instruction exactly when it fits it and the ports hold its operands. -/
theorem decode_eq_ok_iff {w : CmdWord} {b : Bus} {i : Instr} :
    decode w b = .ok i ↔ i.Fits w ∧ i.withFields w b = i := by
  constructor
  · intro h
    unfold decode at h
    split at h
    case h_10 => cases h
    all_goals
      next hop =>
      obtain ⟨hadm, rfl⟩ := checked_eq_ok_iff.mp h
      exact ⟨⟨BitVec.eq_of_toNat_eq hop, hadm⟩, rfl⟩
  · rintro ⟨⟨hop, hadm⟩, hi⟩
    rw [decode_of_opcode b hop, checked_eq_ok_iff]
    exact ⟨hadm, hi⟩

/-! ### The encoder -/

theorem encodeWord_fits (i : Instr) : i.Fits (encodeWord i) := by
  simp only [Instr.Fits, Format.Admits]
  cases i <;>
    simp [encodeWord, Instr.opcode, Instr.format, opField_packWord, rdField_packWord, rsField_packWord,
      immField_packWord, immLegal, immHighField_eq, tagImm_high, formatRI, formatR, formatQ, formatRR, formatRRI,
      formatRX]

theorem withFields_encodeWord (i : Instr) (b : Bus) : i.withFields (encodeWord i) b = i.withBus b := by
  cases i <;>
    simp [encodeWord, Instr.withFields, Instr.withBus, rdField_packWord, rsField_packWord, immField_packWord,
      tagField_eq, tagImm_tag]

/-- The word of an instruction decodes to it, but for an integer operand, which is the number on the bus. -/
theorem decode_encodeWord (i : Instr) (b : Bus) : decode (encodeWord i) b = .ok (i.withBus b) := by
  obtain ⟨hop, hadm⟩ := encodeWord_fits i
  rw [decode_of_opcode b hop, withFields_encodeWord, checked_eq_ok_iff]
  exact ⟨hadm, rfl⟩

/-- A word is rebuilt from its opcode and its operands: the fields its format does not use are zero. -/
theorem encodeWord_withFields {i : Instr} {w : CmdWord} (b : Bus) (h : i.Fits w) :
    encodeWord (i.withFields w b) = w := by
  obtain ⟨hop, hrd, hrs, himm⟩ := h
  have hw : packWord i.opcode (rdField w) (rsField w) (immField w) = w := hop ▸ packWord_fields w
  conv_rhs => rw [← hw]
  cases i with
  | fromint => rw [hrs rfl, ← tagImm_of_immLegal himm, Instr.withFields, encodeWord, num_regOfNum, Instr.opcode]
  | toint => rw [hrd rfl, eq_of_beq himm, Instr.withFields, encodeWord, num_regOfNum, Instr.opcode]
  | inc => rw [eq_of_beq himm, Instr.withFields, encodeWord, num_regOfNum, num_regOfNum, Instr.opcode]
  | skip => rw [eq_of_beq himm, Instr.withFields, encodeWord, num_regOfNum, num_regOfNum, Instr.opcode]
  | bitw | numw32 | numw64 =>
    rw [hrd rfl, hrs rfl, ← tagImm_of_immLegal himm, Instr.withFields, encodeWord, Instr.opcode]
  | getw32 | getw64 => rw [hrd rfl, Instr.withFields, encodeWord, num_regOfNum, Instr.opcode]

/-! ### The integer bus (30_encoding.md R61, R62) -/

theorem busImage_toNat (x : Int) : ((busImage x).toNat : Int) = x % 2 ^ 256 := by
  rw [busImage, BitVec.toNat_ofInt]
  omega

theorem busImage_toNat_of_onBus {n : Int} (h : onBus n) : ((busImage n).toNat : Int) = n := by
  rw [busImage_toNat, Int.emod_eq_of_lt h.1 h.2]

theorem onBus_toNat (b : Bus) : onBus b.toNat := ⟨by omega, by have := b.isLt; omega⟩

theorem busImage_natCast_toNat (b : Bus) : busImage b.toNat = b := by simp [busImage]

theorem withBus_encodeBus {i : Instr} (h : i.wellFormed = true) : i.withBus (encodeBus i) = i := by
  cases i with
  | fromint rd sh n => rw [encodeBus, Instr.withBus, busImage_toNat_of_onBus (of_decide_eq_true h)]
  | skip rd rs n => rw [encodeBus, Instr.withBus, busImage_toNat_of_onBus (of_decide_eq_true h)]
  | _ => rfl

theorem wellFormed_withFields (i : Instr) (w : CmdWord) (b : Bus) : (i.withFields w b).wellFormed = true := by
  cases i with
  | fromint | skip => rw [Instr.withFields, Instr.wellFormed, decide_eq_true (onBus_toNat b)]
  | _ => rfl

theorem encodeBus_withFields {i : Instr} (w : CmdWord) (b : Bus) (h : usesBus i = true) :
    encodeBus (i.withFields w b) = b := by
  cases i with
  | fromint | skip => exact busImage_natCast_toNat b
  | _ => cases h

/-! ### The obligations -/

/-- Settles O7: the word decodes to the instruction with the number on the bus, which is its own operand. -/
theorem decodeOfEncodeIsTheInstruction : Obligations.DecodeOfEncodeIsTheInstruction := by
  intro i hwf
  rw [decode_encodeWord, withBus_encodeBus hwf]

/-- Settles O8: what decodes has its operands in the ports, and from there the encoder puts them back. -/
theorem encodeOfDecodeIsTheWord : Obligations.EncodeOfDecodeIsTheWord := by
  intro w b i hd
  obtain ⟨hfit, hi⟩ := decode_eq_ok_iff.mp hd
  refine ⟨?word, ?wellFormed, fun hu => ?bus⟩
  case word => rw [← hi, encodeWord_withFields b hfit]
  case wellFormed => rw [← hi, wellFormed_withFields]
  case bus => rw [← hi, encodeBus_withFields w b hu]

/-- Settles O6: the decoder computes on the fourteen words. -/
theorem wordsOfTheSpecDecode : Obligations.WordsOfTheSpecDecode := by
  unfold Obligations.WordsOfTheSpecDecode
  decide

/-- Settles O10: the residue of a negative integer with a non-zero residue is `2^256` less that of its negation. -/
theorem integerBusCarriesTheResidue : Obligations.IntegerBusCarriesTheResidue := by
  refine ⟨busImage_toNat, ?negative, by decide, by decide, by decide⟩
  case negative =>
    intro x _ hne
    rw [busImage_toNat]
    omega

end Sys2Proof
end

section
/-! The opcode table against the formats (30_encoding.md R56, R66): the row of a command fixes its opcode and the fields
its format does not use, so a word matches the row exactly when it fits the command. -/

namespace Sys2Proof

/-! ### Masks -/

/-- The bits of `imm8` that must be zero. -/
def ImmUse.mask : ImmUse → BitVec 8
  | .zero => 0xFF
  | .tag => 0xFC
  | .index => 0

/-- The bits of a word that a format fixes: the opcode and the fields it does not use. -/
def Format.mask (f : Format) : CmdWord :=
  packWord 0xF (if f.rd then 0 else 3) (if f.rs then 0 else 3) f.imm.mask

theorem and_immMask_eq_zero_iff (u : ImmUse) (w : CmdWord) : immField w &&& u.mask = 0 ↔ immLegal u w = true := by
  have hall : ∀ d : BitVec 8, d &&& 0xFF = d := by decide
  have htag : ∀ d : BitVec 8, d &&& 0xFC = 0 ↔ d.extractLsb' 2 6 = 0 := by decide
  cases u with
  | zero => rw [ImmUse.mask, immLegal, hall, beq_iff_eq]
  | tag => rw [ImmUse.mask, immLegal, htag, immHighField_eq, beq_iff_eq]
  | index => simp [ImmUse.mask, immLegal]

theorem and_regMask_eq_zero_iff (used : Bool) (r : BitVec 2) :
    r &&& (if used then 0 else 3) = 0 ↔ (used = false → r = 0) := by
  revert used r
  decide

theorem packWord_and (op op' : BitVec 4) (rd rd' rs rs' : BitVec 2) (imm imm' : BitVec 8) :
    packWord op rd rs imm &&& packWord op' rd' rs' imm' =
      packWord (op &&& op') (rd &&& rd') (rs &&& rs') (imm &&& imm') := by
  rw [packWord, packWord, packWord, ← BitVec.and_append, ← BitVec.and_append, ← BitVec.and_append]

theorem packWord_inj {op op' : BitVec 4} {rd rd' rs rs' : BitVec 2} {imm imm' : BitVec 8} :
    packWord op rd rs imm = packWord op' rd' rs' imm' ↔ op = op' ∧ rd = rd' ∧ rs = rs' ∧ imm = imm' := by
  constructor
  · intro h
    have hop := congrArg opField h
    have hrd := congrArg rdField h
    have hrs := congrArg rsField h
    have himm := congrArg immField h
    simp only [opField_packWord, rdField_packWord, rsField_packWord, immField_packWord] at hop hrd hrs himm
    exact ⟨hop, hrd, hrs, himm⟩
  · rintro ⟨rfl, rfl, rfl, rfl⟩
    rfl

/-! ### Rows -/

/-- The row of the opcode table of a command (`row_mem_opcodeTable`). -/
def Instr.row (i : Instr) : OpRow := ⟨i.mnemonic, packWord i.opcode 0 0 0, i.format.mask⟩

theorem row_mem_opcodeTable (i : Instr) : i.row ∈ opcodeTable := by
  cases i <;> simp only [Instr.row, Instr.mnemonic, Instr.opcode, Instr.format] <;> decide

theorem opcodeTable_eq_map_row :
    opcodeTable = [.fromint .v0 .s2x32 0, .toint .v0, .bitw .s2x32, .inc .v0 .v0, .skip .v0 .v0 0, .numw32 .s2x32,
      .numw64 .s2x32, .getw32 .v0 0, .getw64 .v0 0].map Instr.row := by decide

theorem exists_row_of_mem_opcodeTable {r : OpRow} (h : r ∈ opcodeTable) : ∃ i : Instr, i.row = r := by
  rw [opcodeTable_eq_map_row] at h
  obtain ⟨i, -, hi⟩ := List.mem_map.mp h
  exact ⟨i, hi⟩

theorem eq_of_pattern_eq : ∀ r ∈ opcodeTable, ∀ r' ∈ opcodeTable, r.pattern = r'.pattern → r = r' := by decide

/-- A word matches the row of a command exactly when it fits the command. -/
theorem and_rowMask_eq_iff (i : Instr) (w : CmdWord) : w &&& i.row.mask = i.row.pattern ↔ i.Fits w := by
  have hop : opField w &&& 0xF = opField w := BitVec.and_allOnes
  conv_lhs => rw [← packWord_fields w]
  rw [Instr.row, Format.mask, packWord_and, packWord_inj, and_regMask_eq_zero_iff, and_regMask_eq_zero_iff,
    and_immMask_eq_zero_iff, hop]
  exact Iff.rfl

/-- Rows matched by one word have the opcode of the word, and no two rows share one. -/
theorem row_unique {w : CmdWord} {r r' : OpRow} (hr : r ∈ opcodeTable) (hr' : r' ∈ opcodeTable)
    (hw : w &&& r.mask = r.pattern) (hw' : w &&& r'.mask = r'.pattern) : r = r' := by
  obtain ⟨i, rfl⟩ := exists_row_of_mem_opcodeTable hr
  obtain ⟨j, rfl⟩ := exists_row_of_mem_opcodeTable hr'
  obtain ⟨hi, -⟩ := (and_rowMask_eq_iff i w).mp hw
  obtain ⟨hj, -⟩ := (and_rowMask_eq_iff j w).mp hw'
  have hpattern : i.row.pattern = j.row.pattern := by rw [Instr.row, Instr.row, ← hi, ← hj]
  exact eq_of_pattern_eq _ hr _ hr' hpattern

/-- Settles O9: both the decoder and the table accept the words that fit some command. -/
theorem decoderAcceptsExactlyTheTableRows : Obligations.DecoderAcceptsExactlyTheTableRows := by
  refine ⟨fun w b => ⟨?matched, ?decoded⟩, ?mnemonic, fun w r hr r' hr' => row_unique hr hr'⟩
  case matched =>
    rintro ⟨i, hd⟩
    exact ⟨i.row, row_mem_opcodeTable i, (and_rowMask_eq_iff i w).mpr (decode_eq_ok_iff.mp hd).1⟩
  case decoded =>
    rintro ⟨r, hr, hw⟩
    obtain ⟨i, rfl⟩ := exists_row_of_mem_opcodeTable hr
    obtain ⟨hop, hadm⟩ := (and_rowMask_eq_iff i w).mp hw
    exact ⟨i.withFields w b, (decode_of_opcode b hop).trans (checked_eq_ok_iff.mpr ⟨hadm, rfl⟩)⟩
  case mnemonic =>
    intro w b i hd r hr hw
    obtain ⟨hfit, -⟩ := decode_eq_ok_iff.mp hd
    rw [row_unique hr (row_mem_opcodeTable i) hw ((and_rowMask_eq_iff i w).mpr hfit), Instr.row]

end Sys2Proof
end

section
/-! An integer operand acts through its residue (40_fixedwidth.md R83, 41_counter.md R100), and the integer bus carries
enough of it (30_encoding.md R61, R62). -/

namespace Sys2Proof.Machine

theorem digit_congr {w a : Nat} {n m : Int} (i : Nat) (h : n ≡ m [ZMOD 2 ^ (w * a)]) :
    digit w a i n = digit w a i m := by
  rw [digit, digit, h]

theorem fromInteger_congr {s : Shape} {n m : Int} (h : n ≡ m [ZMOD 2 ^ bitWidth s]) :
    fromInteger s n = fromInteger s m := by
  cases s with
  | s2x32 => simp only [fromInteger, unpackTwo, digit_congr (w := 32) (a := 2) _ h]
  | s4x32 => simp only [fromInteger, unpackFour, digit_congr (w := 32) (a := 4) _ h]
  | s2x64 => simp only [fromInteger, unpackTwo, digit_congr (w := 64) (a := 2) _ h]
  | s4x64 => simp only [fromInteger, unpackFour, digit_congr (w := 64) (a := 4) _ h]

theorem skip_congr {x : Value} {a b : Int} (h : a ≡ b [ZMOD 2 ^ bitWidth x.shape]) : skip a x = skip b x :=
  fromInteger_congr (h.add_left _)

theorem bitWidth_le (s : Shape) : bitWidth s ≤ 256 := by cases s <;> decide

/-- No shape is wider than the bus, so the bus loses nothing that a value could hold. -/
theorem busImage_modEq (s : Shape) (n : Int) : ((busImage n).toNat : Int) ≡ n [ZMOD 2 ^ bitWidth s] := by
  rw [busImage_toNat]
  exact (Int.mod_modEq n (2 ^ 256)).of_dvd (pow_dvd_pow 2 (bitWidth_le s))

theorem execFromint_busImage (rd : Reg) (sh : Shape) (n : Int) (s : State) :
    execFromint rd sh (busImage n).toNat s = execFromint rd sh n s := by
  rw [execFromint, execFromint, fromInteger_congr (busImage_modEq sh n)]

theorem execSkip_busImage (rd rs : Reg) (offset : Int) (s : State) :
    execSkip rd rs (busImage offset).toNat s = execSkip rd rs offset s := by
  have hskip : skip (busImage offset).toNat = skip offset := funext fun x => skip_congr (busImage_modEq x.shape offset)
  have hword : encodeWord (.skip rd rs (busImage offset).toNat) = encodeWord (.skip rd rs offset) := rfl
  rw [execSkip, execSkip, hskip, hword]

theorem exec_withBus {i : Instr} {b : Bus} (s : State) (hb : usesBus i = true → b = encodeBus i) :
    exec (i.withBus b) s = exec i s := by
  cases i with
  | fromint rd sh n =>
    rw [hb rfl]
    exact execFromint_busImage rd sh n s
  | skip rd rs offset =>
    rw [hb rfl]
    exact execSkip_busImage rd rs offset s
  | _ => rfl

/-- Settles O11: the ports decode to the instruction with the residue as its operand, and that does the same. -/
theorem presentedInstructionDoesItsMeaning : Obligations.PresentedInstructionDoesItsMeaning := by
  intro i b s hb
  calc execute ⟨encodeWord i, b⟩ s
    _ = exec (i.withBus b) s := execute_of_decode_ok (c := ⟨encodeWord i, b⟩) s (decode_encodeWord i b)
    _ = exec i s := exec_withBus s hb

end Sys2Proof.Machine
end

section
/-! The pseudo-instructions and the assembler (30_encoding.md R70 to R75), from the round trip of the conversions
(40_fixedwidth.md R84). -/

namespace Sys2Proof.Machine

/-! ### The conversions undo each other -/

/-- Unpacking the sum of the shifted elements gives each element back, bit by bit. -/
theorem digit_shiftedSum {w i : Nat} {es : List (NativeWord w)} {e : NativeWord w} (he : es[i]? = some e) :
    digit w es.length i (shiftedSum es) = e := by
  have hmod : (shiftedSum es : Int) % 2 ^ (w * es.length) = shiftedSum es :=
    Int.emod_eq_of_lt (by omega) (by exact_mod_cast shiftedSum_lt es)
  apply BitVec.eq_of_getLsbD_eq
  intro j hj
  simp [digit, hmod, hj, Nat.testBit_shiftRight, testBit_shiftedSum he hj, BitVec.getLsbD]

theorem unpackTwo_shiftedSum {w : Nat} (e0 e1 : NativeWord w) : unpackTwo w (shiftedSum [e0, e1]) = .two e0 e1 := by
  have hdigit {i : Nat} {e : NativeWord w} (he : [e0, e1][i]? = some e) :
      digit w 2 i (shiftedSum [e0, e1]) = e := digit_shiftedSum he
  rw [unpackTwo, hdigit (i := 0) rfl, hdigit (i := 1) rfl]

theorem unpackFour_shiftedSum {w : Nat} (e0 e1 e2 e3 : NativeWord w) :
    unpackFour w (shiftedSum [e0, e1, e2, e3]) = .four e0 e1 e2 e3 := by
  have hdigit {i : Nat} {e : NativeWord w} (he : [e0, e1, e2, e3][i]? = some e) :
      digit w 4 i (shiftedSum [e0, e1, e2, e3]) = e := digit_shiftedSum he
  rw [unpackFour, hdigit (i := 0) rfl, hdigit (i := 1) rfl, hdigit (i := 2) rfl, hdigit (i := 3) rfl]

theorem fromInteger_toInteger (x : Value) : fromInteger x.shape x.toInteger = x := by
  rcases x with (⟨e0, e1⟩ | ⟨e0, e1, e2, e3⟩) | (⟨e0, e1⟩ | ⟨e0, e1, e2, e3⟩)
  · exact congrArg Value.w32 (unpackTwo_shiftedSum e0 e1)
  · exact congrArg Value.w32 (unpackFour_shiftedSum e0 e1 e2 e3)
  · exact congrArg Value.w64 (unpackTwo_shiftedSum e0 e1)
  · exact congrArg Value.w64 (unpackFour_shiftedSum e0 e1 e2 e3)

theorem toInteger_fromInteger (s : Shape) (n : Int) : ((fromInteger s n).toInteger : Int) = n % 2 ^ bitWidth s := by
  cases s with
  | s2x32 =>
    simp only [fromInteger, unpackTwo, toInteger_two32, digit_toNat, bitWidth, Shape.width, Shape.arity]
    omega
  | s4x32 =>
    simp only [fromInteger, unpackFour, toInteger_four32, digit_toNat, bitWidth, Shape.width, Shape.arity]
    omega
  | s2x64 =>
    simp only [fromInteger, unpackTwo, toInteger_two64, digit_toNat, bitWidth, Shape.width, Shape.arity]
    omega
  | s4x64 =>
    simp only [fromInteger, unpackFour, toInteger_four64, digit_toNat, bitWidth, Shape.width, Shape.arity]
    omega

theorem fromInteger_zero (s : Shape) : fromInteger s 0 = zeroOf s := by cases s <;> decide

theorem fromInteger_neg_one (s : Shape) : fromInteger s (-1) = onesOf s := by cases s <;> decide

/-! ### skip by 0 and by -1 -/

@[simp] theorem skip_zero (x : Value) : skip 0 x = x := by
  rw [skip, add_zero, fromInteger_toInteger]

theorem toInteger_skip (offset : Int) (x : Value) :
    ((skip offset x).toInteger : Int) = (x.toInteger + offset) % 2 ^ bitWidth x.shape :=
  toInteger_fromInteger _ _

theorem skip_neg_one_zeroOf (s : Shape) : skip (-1) (zeroOf s) = onesOf s := by
  rw [skip, shape_zeroOf, toInteger_zeroOf, Nat.cast_zero, zero_add, fromInteger_neg_one]

/-! ### The obligations -/

/-- Settles O36: MOV and DEC are skips by 0 and by -1, ZERO and ONES unpack 0 and -1. -/
theorem pseudoInstructionsExpand : Obligations.PseudoInstructionsExpand := by
  refine ⟨?mov, ?movInvalid, ?dec, fun rd sh s hr => ⟨?zero, ?ones⟩⟩
  case mov =>
    intro rd rs s x hr h
    exact ⟨_, compute_valid hr h, by simp⟩
  case movInvalid =>
    intro rd rs s hr h
    exact ⟨_, compute_invalid hr h, rfl, rfl, rfl, rfl, rfl⟩
  case dec =>
    intro rd rs s x hr h
    refine ⟨_, skip (-1) x, compute_valid hr h, by simp, toInteger_skip (-1) x, fun hzero => ?_⟩
    rw [hzero, skip_neg_one_zeroOf, shape_zeroOf]
  case zero => exact ⟨_, execFromint_running hr, by simp [fromInteger_zero]⟩
  case ones => exact ⟨_, execFromint_running hr, by simp [fromInteger_neg_one]⟩

/-- Settles O12: the assembler and the lister compute on the lines. -/
theorem assemblerLinesOfTheSpec : Obligations.AssemblerLinesOfTheSpec := by
  unfold Obligations.AssemblerLinesOfTheSpec
  decide

end Sys2Proof.Machine
end

section
/-! The widths of the shapes (40_fixedwidth.md R85, 42_wordview.md R110), the conversions as mutually inverse bijections
(R84), and the packer and the unpacker as wiring (R81, R83, R89). -/

namespace Sys2Proof.Machine

/-! ### Widths and word counts -/

/-- Every word view divides every shape exactly (42_wordview.md R110). -/
theorem bits_dvd_bitWidth (s : Shape) (g : Granularity) : g.bits ∣ bitWidth s := by
  cases g <;> cases s <;> decide

theorem numWords_mul_bits (s : Shape) (g : Granularity) : numWords s g * g.bits = bitWidth s :=
  Nat.div_mul_cancel (bits_dvd_bitWidth s g)

theorem numWords_le_bitWidth (s : Shape) (g : Granularity) : numWords s g ≤ bitWidth s := Nat.div_le_self _ _

/-- Settles O13: exact division for every shape and granularity, and the listed numbers by computation. -/
theorem widthsAndWordCountsOfTheShapes : Obligations.WidthsAndWordCountsOfTheShapes :=
  ⟨fun s => ⟨rfl, numWords_mul_bits s⟩, by decide⟩

/-! ### The bijection -/

theorem toInteger_lt (x : Value) : x.toInteger < 2 ^ bitWidth x.shape := by
  cases x with
  | w32 t =>
    rw [bitWidth, shape_width_w32, shape_arity_w32]
    exact shiftedSum_lt t.elems
  | w64 t =>
    rw [bitWidth, shape_width_w64, shape_arity_w64]
    exact shiftedSum_lt t.elems

/-- No value is wider than the response bus, so `zext_256` loses nothing (40_fixedwidth.md R87). -/
theorem toInteger_lt_bus (x : Value) : x.toInteger < 2 ^ 256 :=
  (toInteger_lt x).trans_le (Nat.pow_le_pow_right two_pos (bitWidth_le x.shape))

theorem toInteger_fromInteger_of_lt {s : Shape} {n : Nat} (h : n < 2 ^ bitWidth s) :
    (fromInteger s n).toInteger = n := by
  have hmod : (n : Int) % 2 ^ bitWidth s = n := Int.emod_eq_of_lt (by omega) (by exact_mod_cast h)
  exact_mod_cast (toInteger_fromInteger s n).trans hmod

theorem toInteger_inj {x y : Value} (hs : x.shape = y.shape) (hn : x.toInteger = y.toInteger) : x = y := by
  rw [← fromInteger_toInteger x, hs, hn, fromInteger_toInteger]

/-- Settles O14: the two round trips, the range of toInteger, and injectivity from the second round trip. -/
theorem conversionsRoundTrip : Obligations.ConversionsRoundTrip :=
  ⟨fun s n => ⟨shape_fromInteger s n, toInteger_fromInteger s n⟩,
    fun _ _ => toInteger_fromInteger_of_lt,
    fun x => ⟨toInteger_lt x, fromInteger_toInteger x⟩,
    fun _ _ => toInteger_inj⟩

/-! ### The packer -/

/-- A concatenation of four words as the OR of the shifted words. -/
theorem append_four_toNat {w : Nat} (a b c d : NativeWord w) :
    (a ++ b ++ c ++ d).toNat =
      (a.toNat <<< (w + w + w)) ||| (b.toNat <<< (w + w)) ||| (c.toNat <<< w) ||| d.toNat := by
  simp only [BitVec.toNat_append, Nat.shiftLeft_or_distrib, ← Nat.shiftLeft_add]

/-! Appending a word on the right puts it below the place of the words before it, so the sum of the shifted elements has
no carries (`append_toNat`). -/

theorem shiftedSum_two {w : Nat} (a b : NativeWord w) : shiftedSum [a, b] = (a ++ b).toNat := by
  rw [append_toNat]
  simp [shiftedSum, Nat.shiftLeft_eq]

theorem shiftedSum_four {w : Nat} (a b c d : NativeWord w) :
    shiftedSum [a, b, c, d] = (a ++ b ++ c ++ d).toNat := by
  simp only [append_toNat, shiftedSum, Nat.shiftLeft_eq, List.length_cons, List.length_nil]
  ring

theorem toInteger_eq_packed (x : Value) : x.toInteger = x.packed.toNat := by
  rcases x with (⟨a, b⟩ | ⟨a, b, c, d⟩) | (⟨a, b⟩ | ⟨a, b, c, d⟩)
  · exact shiftedSum_two a b
  · exact shiftedSum_four a b c d
  · exact shiftedSum_two a b
  · exact shiftedSum_four a b c d

/-- Settles O15: the sum is the concatenation, and the concatenation is the OR of the shifted elements. -/
theorem packerIsOrAndConcatenation : Obligations.PackerIsOrAndConcatenation :=
  ⟨toInteger_eq_packed,
    fun a b => (shiftedSum_two a b).trans (BitVec.toNat_append a b),
    fun a b c d => (shiftedSum_four a b c d).trans (append_four_toNat a b c d),
    fun a b => (shiftedSum_two a b).trans (BitVec.toNat_append a b),
    fun a b c d => (shiftedSum_four a b c d).trans (append_four_toNat a b c d)⟩

/-! ### The unpacker -/

/-- An element of the number on the bus is a slice of the bus: reducing modulo `2^(w×a)` first leaves the bits of the
slice as they are. -/
theorem digit_eq_extractLsb' {w a i : Nat} (b : Bus) (hi : i < a) :
    digit w a i b.toNat = b.extractLsb' (w * (a - 1 - i)) w := by
  have hplace : w * (a - 1 - i) + w ≤ w * a := by
    rw [← Nat.mul_succ]
    exact Nat.mul_le_mul_left w (by omega)
  have hcast : ((b.toNat : Int) % 2 ^ (w * a)).toNat = b.toNat % 2 ^ (w * a) := by norm_cast
  apply BitVec.eq_of_getLsbD_eq
  intro j hj
  have hbelow : w * (a - 1 - i) + j < w * a := by omega
  simp [digit, hcast, hj, hbelow, Nat.testBit_shiftRight, Nat.testBit_mod_two_pow, BitVec.getLsbD]

theorem fromInteger_toNat (s : Shape) (b : Bus) : fromInteger s b.toNat = unpackBus s b := by
  cases s with
  | s2x32 => simp [fromInteger, unpackTwo, unpackBus, digit_eq_extractLsb']
  | s4x32 => simp [fromInteger, unpackFour, unpackBus, digit_eq_extractLsb']
  | s2x64 => simp [fromInteger, unpackTwo, unpackBus, digit_eq_extractLsb']
  | s4x64 => simp [fromInteger, unpackFour, unpackBus, digit_eq_extractLsb']

theorem fromInteger_eq_unpackBus (s : Shape) (n : Int) : fromInteger s n = unpackBus s (busImage n) := by
  rw [← fromInteger_toNat, fromInteger_congr (busImage_modEq s n)]

/-- The bus bits above the width of the shape are dropped. -/
theorem unpackBus_congr {s : Shape} {b c : Bus} (h : b.toNat ≡ c.toNat [MOD 2 ^ bitWidth s]) :
    unpackBus s b = unpackBus s c := by
  have hint : (b.toNat : Int) ≡ c.toNat [ZMOD 2 ^ bitWidth s] := by exact_mod_cast Int.natCast_modEq_iff.mpr h
  rw [← fromInteger_toNat, ← fromInteger_toNat, fromInteger_congr hint]

/-- Settles O16: the congruence of fromInteger, the slices of the bus, and the congruence of the slices. -/
theorem unpackerIsSlicesOfTheBus : Obligations.UnpackerIsSlicesOfTheBus :=
  ⟨fun _ _ _ hdvd => (fromInteger_congr (Int.modEq_iff_dvd.mpr hdvd)).symm,
    fromInteger_eq_unpackBus,
    fun _ _ _ => unpackBus_congr⟩

end Sys2Proof.Machine
end

section
/-! The commands of the conversions and of the shapes' numbers on a running unit (40_fixedwidth.md R86 to R88,
42_wordview.md R119, R120). -/

namespace Sys2Proof.Machine

theorem answered_respond (st : Status) (d : Bus) (s : State) : Answered st d s (respond st d s) :=
  ⟨rfl, rfl, rfl, rfl, rfl⟩

/-- A number below `2^256` is answered without loss, and registers and FSR are kept (30_encoding.md R59). -/
theorem answer_completes {n : Nat} (s : State) (hn : n < 2 ^ 256) :
    ∃ t d, answer n s = .next t ∧ d.toNat = n ∧ t.v = s.v ∧ t.fsr = s.fsr ∧ Answered .ok d s t :=
  ⟨_, BitVec.ofNat 256 n, rfl, (BitVec.toNat_ofNat n 256).trans (Nat.mod_eq_of_lt hn), rfl, rfl,
    answered_respond _ _ _⟩

theorem query_completes {n : Nat} {s : State} (hr : Safe s) (hn : n < 2 ^ 256) :
    ∃ t d, query n s = .next t ∧ d.toNat = n ∧ t.v = s.v ∧ t.fsr = s.fsr ∧ Answered .ok d s t := by
  rw [query, unlessHalted_running hr]
  exact answer_completes s hn

/-- Settles O28: FROMINT writes fromInteger, which is the slices of the bus, and answers OK. -/
theorem fromintWritesTheUnpackedInteger : Obligations.FromintWritesTheUnpackedInteger := by
  intro rd sh n s hr
  exact ⟨_, fromInteger sh n, execFromint_running hr, read_write_same s.v rd _, fromInteger_eq_unpackBus sh n,
    shape_fromInteger sh n, toInteger_fromInteger sh n, fun _ => read_write_other s.v _, rfl, answered_respond _ _ _⟩

/-- Settles O29: TOINT answers toInteger, which the bus holds without loss. -/
theorem tointAnswersTheInteger : Obligations.TointAnswersTheInteger := by
  intro rs s x hr hx
  obtain ⟨t, d, hanswer, hd, hv, hfsr, hansd⟩ := answer_completes s (toInteger_lt_bus x)
  exact ⟨t, d, (execToint_valid hr hx).trans hanswer, hd, hd ▸ toInteger_lt x, hv, hfsr, hansd⟩

/-- Settles O30: the three queries answer numbers of at most `bitWidth`, far below the bus. -/
theorem queriesAnswerTheShapeNumbers : Obligations.QueriesAnswerTheShapeNumbers := by
  intro sh s hr
  have hwidth : bitWidth sh < 2 ^ 256 := (bitWidth_le sh).trans_lt (by norm_num)
  have hwords (g : Granularity) : numWords sh g < 2 ^ 256 := (numWords_le_bitWidth sh g).trans_lt hwidth
  exact ⟨query_completes hr hwidth, query_completes hr (hwords .g32), query_completes hr (hwords .g64)⟩

end Sys2Proof.Machine
end

section
/-! Addition on values (41_counter.md R97, R100): skips compose, so each is undone by the opposite one. -/

namespace Sys2Proof.Machine

@[simp] theorem shape_skip (offset : Int) (x : Value) : (skip offset x).shape = x.shape := shape_fromInteger _ _

/-- Skips compose: what the inner one reduces away, the outer one would reduce too. -/
theorem skip_skip (a b : Int) (x : Value) : skip a (skip b x) = skip (a + b) x := by
  have hsum : ((skip b x).toInteger : Int) + a ≡ x.toInteger + (a + b) [ZMOD 2 ^ bitWidth x.shape] := by
    rw [toInteger_skip, add_comm a b, ← add_assoc]
    exact (Int.mod_modEq _ _).add_right a
  calc skip a (skip b x)
    _ = fromInteger x.shape ((skip b x).toInteger + a) := by rw [skip, shape_skip]
    _ = skip (a + b) x := fromInteger_congr hsum

theorem skip_neg_skip (a : Int) (x : Value) : skip (-a) (skip a x) = x := by
  rw [skip_skip, neg_add_cancel, skip_zero]

/-- A skip is undone by the opposite one, on either side. -/
theorem skip_eq_iff {a : Int} {x y : Value} : skip a x = y ↔ x = skip (-a) y := by
  constructor
  · rintro rfl
    rw [skip_neg_skip]
  · rintro rfl
    rw [skip_skip, add_neg_cancel, skip_zero]

/-- Settles O20: the definition, its shape and its integer. -/
theorem skipAddsModuloTheWidth : Obligations.SkipAddsModuloTheWidth :=
  fun offset x => ⟨rfl, shape_skip offset x, toInteger_skip offset x⟩

end Sys2Proof.Machine
end

section
/-! The carry chains (41_counter.md R101, R102): each stage forms an exact sum, so a chain adds modulo `2^(w×a)`; with a
second operand of zero and a carry in of 1 it is the ripple of `increment` (R95). -/

namespace Sys2Proof.Machine

/-! ### One stage -/

section Stage
variable {w : Nat} (a b : NativeWord w) (c : Bool)

theorem exactSum_lt : exactSum a b c < 2 ^ (w + 1) := by
  have ha := a.isLt
  have hb := b.isLt
  have hc := c.toNat_le
  rw [exactSum, Nat.pow_succ]
  omega

/-- The carry of a stage is bit `w` of its sum, the only one above the element. -/
theorem addElement_carry : (addElement a b c).carry.toNat = exactSum a b c / 2 ^ w := by
  have hlt : exactSum a b c / 2 ^ w < 2 := Nat.div_lt_of_lt_mul (exactSum_lt a b c)
  rw [addElement, Nat.shiftRight_eq_div_pow]
  interval_cases exactSum a b c / 2 ^ w <;> rfl

/-- A stage loses nothing: sum and carry out together are the two elements and the carry in. -/
theorem addElement_exact :
    (addElement a b c).sum.toNat + 2 ^ w * (addElement a b c).carry.toNat = exactSum a b c := by
  rw [addElement_carry, addElement_sum]
  exact Nat.mod_add_div (exactSum a b c) (2 ^ w)

end Stage

/-! ### The chain adds -/

/-- The sum elements `ss` and the last carry `k` are the exact sum of two operands and a carry in. -/
structure ChainSum {w : Nat} (c : Bool) (as bs ss : List (NativeWord w)) (k : Bool) : Prop where
  left : as.length = ss.length
  right : bs.length = ss.length
  sum : shiftedSum ss + 2 ^ (w * ss.length) * k.toNat = shiftedSum as + shiftedSum bs + c.toNat

theorem chainSum_nil {w : Nat} (c : Bool) : ChainSum c ([] : List (NativeWord w)) [] [] c :=
  ⟨rfl, rfl, by simp [shiftedSum]⟩

/-- One more stage at the most significant end: the carry it takes in is the one the chain gave out. -/
theorem ChainSum.cons {w : Nat} {c k : Bool} {as bs ss : List (NativeWord w)} (h : ChainSum c as bs ss k)
    (a b : NativeWord w) :
    ChainSum c (a :: as) (b :: bs) ((addElement a b k).sum :: ss) (addElement a b k).carry where
  left := congrArg Nat.succ h.left
  right := congrArg Nat.succ h.right
  sum := by
    have hstage := addElement_exact a b k
    have hsum := h.sum
    simp only [shiftedSum_cons, List.length_cons, h.left, h.right, Nat.mul_succ, Nat.pow_add, exactSum] at hstage ⊢
    zify at hstage hsum ⊢
    linear_combination hsum + 2 ^ (w * ss.length) * hstage

/-- The elements of the second operand of a chain, most significant first. -/
def Tuple.operand {w : Nat} (o : Nat → NativeWord w) : Tuple w → List (NativeWord w)
  | .two _ _ => [o 0, o 1]
  | .four _ _ _ _ => [o 0, o 1, o 2, o 3]

theorem chainSum_chain {w : Nat} (o : Nat → NativeWord w) (c : Bool) (t : Tuple w) :
    ∃ k, ChainSum c t.elems (t.operand o) (t.chain o c).elems k := by
  cases t with
  | two e0 e1 => exact ⟨_, ((chainSum_nil c).cons e1 (o 1)).cons e0 (o 0)⟩
  | four e0 e1 e2 e3 =>
    exact ⟨_, ((((chainSum_nil c).cons e3 (o 3)).cons e2 (o 2)).cons e1 (o 1)).cons e0 (o 0)⟩

/-- With its last carry dropped, a chain adds modulo `2^(w×a)`. -/
theorem shiftedSum_chain {w : Nat} (o : Nat → NativeWord w) (c : Bool) (t : Tuple w) :
    shiftedSum (t.chain o c).elems =
      (shiftedSum t.elems + shiftedSum (t.operand o) + c.toNat) % 2 ^ (w * t.elems.length) := by
  obtain ⟨k, h⟩ := chainSum_chain o c t
  rw [← h.sum, h.left, Nat.add_mul_mod_self_left, Nat.mod_eq_of_lt (shiftedSum_lt _)]

/-! ### The chain of `skip` -/

@[simp] theorem shape_skipChain (offset : Int) (x : Value) : (skipChain offset x).shape = x.shape := by
  rcases x with (_ | _) | (_ | _) <;> rfl

theorem toInteger_skipChain (offset : Int) (x : Value) : (skipChain offset x).toInteger =
    (x.toInteger + (fromInteger x.shape offset).toInteger) % 2 ^ bitWidth x.shape := by
  cases x with
  | w32 t =>
    have hoperand : shiftedSum (t.operand fun i => digit 32 t.arity i offset) =
        (fromInteger (Value.w32 t).shape offset).toInteger := by cases t <;> rfl
    rw [bitWidth, shape_width_w32, shape_arity_w32, ← hoperand]
    exact shiftedSum_chain _ false t
  | w64 t =>
    have hoperand : shiftedSum (t.operand fun i => digit 64 t.arity i offset) =
        (fromInteger (Value.w64 t).shape offset).toInteger := by cases t <;> rfl
    rw [bitWidth, shape_width_w64, shape_arity_w64, ← hoperand]
    exact shiftedSum_chain _ false t

/-- The unpacked offset is congruent to the offset, so adding it modulo the width is the same. -/
theorem skipChain_eq_skip (offset : Int) (x : Value) : skipChain offset x = skip offset x := by
  refine toInteger_inj (by simp) ?_
  zify
  rw [toInteger_skipChain, toInteger_skip]
  push_cast
  rw [toInteger_fromInteger, Int.add_emod_emod]

/-! ### The chain of `increment` -/

@[simp] theorem shape_incrementChain (x : Value) : (incrementChain x).shape = x.shape := by
  rcases x with (_ | _) | (_ | _) <;> rfl

theorem shiftedSum_operand_zero {w : Nat} (t : Tuple w) : shiftedSum (t.operand fun _ => 0) = 0 := by
  cases t <;> simp [Tuple.operand, shiftedSum]

theorem toInteger_incrementChain (x : Value) :
    (incrementChain x).toInteger = (x.toInteger + 1) % 2 ^ bitWidth x.shape := by
  cases x with
  | w32 t =>
    rw [bitWidth, shape_width_w32, shape_arity_w32]
    exact (shiftedSum_chain _ true t).trans (by rw [shiftedSum_operand_zero]; rfl)
  | w64 t =>
    rw [bitWidth, shape_width_w64, shape_arity_w64]
    exact (shiftedSum_chain _ true t).trans (by rw [shiftedSum_operand_zero]; rfl)

theorem incrementChain_eq_skip_one (x : Value) : incrementChain x = skip 1 x := by
  refine toInteger_inj (by simp) ?_
  zify
  rw [toInteger_incrementChain, toInteger_skip]
  norm_cast

/-! ### The ripple is a chain -/

section Ripple
variable {w : Nat} (e : NativeWord w)

/-- A stage with nothing to add lets its element through. -/
@[simp] theorem addElement_zero_false : addElement e 0#w false = ⟨e, false⟩ := by
  simp [addElement, exactSum, Nat.shiftRight_eq_div_pow, Nat.div_eq_of_lt e.isLt]

/-- A stage with only a carry to add passes it on exactly when its element is at the maximum. -/
@[simp] theorem addElement_zero_true :
    addElement e 0#w true = if atMax e then ⟨0#w, true⟩ else ⟨e + 1#w, false⟩ := by
  have hsum : exactSum e 0#w true = e.toNat + 1 := by simp [exactSum]
  rcases h : atMax e with _ | _
  · have hlt : e.toNat + 1 < 2 ^ w := by
      have hne := (atMax_false e).mp h
      have he := e.isLt
      omega
    simp [addElement, hsum, Nat.shiftRight_eq_div_pow, Nat.div_eq_of_lt hlt, BitVec.ofNat_add]
  · have heq : e.toNat + 1 = 2 ^ w := by
      rw [eq_of_beq h, BitVec.toNat_allOnes, Nat.sub_add_cancel Nat.one_le_two_pow]
    have hzero : BitVec.ofNat w (2 ^ w) = 0#w := by
      apply BitVec.eq_of_toNat_eq
      rw [BitVec.toNat_ofNat, BitVec.toNat_zero, Nat.mod_self]
    rw [addElement, hsum, heq, hzero]
    simp [Nat.shiftRight_eq_div_pow]

end Ripple

/-- The carry runs through the elements at their maximum and stops in the first one below it. -/
theorem tuple_increment_eq_chain {w : Nat} (t : Tuple w) : t.increment = t.chain (fun _ => 0) true := by
  cases t with
  | two e0 e1 =>
    rcases h1 : atMax e1 with _ | _
    · simp [Tuple.increment, Tuple.chain, h1]
    rcases h0 : atMax e0 with _ | _ <;> simp [Tuple.increment, Tuple.chain, h1, h0]
  | four e0 e1 e2 e3 =>
    rcases h3 : atMax e3 with _ | _
    · simp [Tuple.increment, Tuple.chain, h3]
    rcases h2 : atMax e2 with _ | _
    · simp [Tuple.increment, Tuple.chain, h3, h2]
    rcases h1 : atMax e1 with _ | _
    · simp [Tuple.increment, Tuple.chain, h3, h2, h1]
    rcases h0 : atMax e0 with _ | _ <;> simp [Tuple.increment, Tuple.chain, h3, h2, h1, h0]

theorem increment_eq_incrementChain (x : Value) : increment x = incrementChain x := by
  cases x with
  | w32 t => exact congrArg Value.w32 (tuple_increment_eq_chain t)
  | w64 t => exact congrArg Value.w64 (tuple_increment_eq_chain t)

theorem increment_eq_skip_one (x : Value) : increment x = skip 1 x :=
  (increment_eq_incrementChain x).trans (incrementChain_eq_skip_one x)

/-! ### The obligations -/

/-- Settles O22: the chain and the formula have one integer, and a stage's sum stays below `2^(w+1)`. -/
theorem carryChainComputesSkip : Obligations.CarryChainComputesSkip :=
  ⟨skipChain_eq_skip, fun _ a b c => Nat.le_sub_one_of_lt (exactSum_lt a b c)⟩

/-- Settles O23: the ripple is the chain with carry in 1, and both chains add one. -/
theorem carryChainComputesIncrement : Obligations.CarryChainComputesIncrement :=
  fun x => ⟨(increment_eq_incrementChain x).symm, by rw [incrementChain_eq_skip_one, skipChain_eq_skip]⟩

/-- Settles O18, by way of the carry chain. -/
theorem incrementIsSkipOne : Obligations.IncrementIsSkipOne := increment_eq_skip_one

end Sys2Proof.Machine
end

section
/-! What follows for `increment` from its being a skip by one: where it wraps (41_counter.md R96), its repetition
(R100), and the commands INC and SKIP (R103 to R105). -/

namespace Sys2Proof.Machine

@[simp] theorem shape_increment (x : Value) : (increment x).shape = x.shape := by
  rw [increment_eq_skip_one, shape_skip]

theorem toInteger_increment (x : Value) : (increment x).toInteger = (x.toInteger + 1) % 2 ^ bitWidth x.shape := by
  rw [increment_eq_incrementChain, toInteger_incrementChain]

/-- The value before zero is the all-ones value. -/
theorem increment_eq_zeroOf_iff {s : Shape} {x : Value} : increment x = zeroOf s ↔ x = onesOf s := by
  rw [increment_eq_skip_one, skip_eq_iff, skip_neg_one_zeroOf]

theorem skip_natCast (k : Nat) (x : Value) : skip k x = Nat.iterate increment k x := by
  induction k generalizing x with
  | zero => exact skip_zero x
  | succ k ih =>
    calc skip (k + 1 : Nat) x
      _ = skip k (skip 1 x) := by rw [skip_skip, Nat.cast_succ]
      _ = Nat.iterate increment (k + 1) x := by rw [← increment_eq_skip_one, ih, Function.iterate_succ_apply]

/-- Settles O19: increment is undone by the skip by -1, which takes zero to all ones. -/
theorem incrementWrapsOnlyAllOnes : Obligations.IncrementWrapsOnlyAllOnes :=
  ⟨fun _ => increment_eq_zeroOf_iff.mpr rfl, fun _ => increment_eq_zeroOf_iff⟩

/-- Settles O21: a congruence for the laws about the modulus, composition for the others. -/
theorem skipLaws : Obligations.SkipLaws := by
  refine ⟨?congr, fun x => ⟨?width, ?negOne⟩, skip_zero, skip_skip, skip_neg_skip, skip_natCast⟩
  case congr =>
    intro a b x hdvd
    exact (skip_congr (Int.modEq_iff_dvd.mpr hdvd)).symm
  case width =>
    have hmod : (2 ^ bitWidth x.shape : Int) ≡ 0 [ZMOD 2 ^ bitWidth x.shape] := Int.modEq_zero_iff_dvd.mpr dvd_rfl
    rw [skip_congr hmod, skip_zero]
  case negOne => exact skip_congr (Int.modEq_iff_dvd.mpr ⟨1, by ring⟩)

/-! ### INC and SKIP -/

/-- A computing command on a running unit with a valid source writes the result whole, keeps the rest and answers OK 0;
the source is read before the destination is written, so they may be one register (70_reset_and_hazards.md R164). -/
theorem compute_completes {rd rs : Reg} {w : CmdWord} {f : Value → Value} {s : State} {x : Value} (hr : Safe s)
    (hx : s.v.read rs = .valid x) :
    ∃ t, compute rd rs w f s = .next t ∧ t.v.read rd = .valid (f x) ∧ OthersKept rd s t ∧ t.fsr = s.fsr ∧
      Answered .ok 0 s t :=
  ⟨_, compute_valid hr hx, read_write_same _ _ _, fun _ => read_write_other _ _, rfl, answered_respond _ _ _⟩

/-- Settles O31: INC writes the increment, which is the value plus one. -/
theorem incWritesTheSuccessor : Obligations.IncWritesTheSuccessor := by
  intro rd rs s x hr hx
  obtain ⟨t, hexec, hrd, hkept⟩ := compute_completes hr hx
  exact ⟨t, increment x, hexec, hrd, shape_increment x, toInteger_increment x, hkept⟩

/-- Settles O32: SKIP writes the skip, which is the value plus the offset. -/
theorem skipWritesTheSum : Obligations.SkipWritesTheSum := by
  intro rd rs offset s x hr hx
  obtain ⟨t, hexec, hrd, hkept⟩ := compute_completes hr hx
  exact ⟨t, skip offset x, hexec, hrd, shape_skip offset x, toInteger_skip offset x, hkept⟩

/-- The opcode in the word of an instruction is its own (30_encoding.md R66). -/
theorem opField_encodeWord (i : Instr) : opField (encodeWord i) = i.opcode := (encodeWord_fits i).1

/-- On a running unit with a valid source INC is SKIP by one: both write one value. -/
theorem execInc_valid {rd rs : Reg} {s : State} {x : Value} (hr : s.fsr.f = false) (h : s.v.read rs = .valid x) :
    exec (.inc rd rs) s = exec (.skip rd rs 1) s := by
  calc exec (.inc rd rs) s
    _ = .next (respond .ok 0 (s.write rd (increment x))) := compute_valid hr h
    _ = .next (respond .ok 0 (s.write rd (skip 1 x))) := by rw [increment_eq_skip_one]
    _ = exec (.skip rd rs 1) s := (compute_valid hr h).symm

/-- Settles O35: halted, both answer HALTED; with a valid source both write one value; with an invalid one both take
UnwrittenRegister, and only the word recorded differs. -/
theorem incAndSkipOneAreIndistinguishable : Obligations.IncAndSkipOneAreIndistinguishable := by
  refine ⟨fun rd rs s h => ?same, fun rd rs s hx hr => ?unwritten⟩
  case same =>
    rcases hf : s.fsr.f with _ | _
    · rcases hx : s.v.read rs with _ | x
      · simp [hx, hf] at h
      · exact execInc_valid hf hx
    · rw [exec_halted _ hf, exec_halted _ hf]
  case unwritten =>
    exact ⟨_, _, compute_invalid hr hx, compute_invalid hr hx, rfl, opField_encodeWord _, opField_encodeWord _, rfl⟩

end Sys2Proof.Machine
end

section
/-! The view of a value as words (42_wordview.md R111, R112): chunks of a number, and the chunks of a view added or joined
in index order, which give the number back (R116). -/

namespace Sys2Proof.Machine

/-! ### Chunks of a number -/

/-- Chunk `k` of the `m` chunks of `g` bits of `n`, the most significant first (42_wordview.md R111); inside the bounds it
is the word of the formula (`getWord_natCast`). -/
def chunk (g m n k : Nat) : Nat := (n >>> (g * (m - 1 - k))) % 2 ^ g

/-- A chunk is the element that unpacking puts at the same place. -/
theorem chunk_eq_digit {g m n : Nat} (k : Nat) (hn : n < 2 ^ (g * m)) : chunk g m n k = (digit g m k n).toNat := by
  have hmod : ((n : Int) % 2 ^ (g * m)).toNat = n := by
    rw [Int.emod_eq_of_lt (by omega) (by exact_mod_cast hn), Int.toNat_natCast]
  rw [digit_toNat, hmod, chunk, Nat.shiftRight_eq_div_pow]

/-- The chunks of a tuple at its native width are its elements (42_wordview.md R113). -/
theorem chunk_shiftedSum {w k : Nat} {es : List (NativeWord w)} {e : NativeWord w} (he : es[k]? = some e) :
    chunk w es.length (shiftedSum es) k = e.toNat := by
  rw [chunk_eq_digit k (shiftedSum_lt es), digit_shiftedSum he]

section Halves
variable {m q : Nat} (g n : Nat) (hq : q < m)
include hq

/-- The upper half of a chunk is the chunk of half the width at twice the index. -/
theorem chunk_two_mul : chunk g (2 * m) n (2 * q) = chunk (2 * g) m n q >>> g := by
  have hplace : g * (2 * m - 1 - 2 * q) = 2 * g * (m - 1 - q) + g := by
    rw [show 2 * m - 1 - 2 * q = 2 * (m - 1 - q) + 1 by omega]
    ring
  rw [chunk, chunk, hplace, Nat.shiftRight_add, Nat.shiftRight_eq_div_pow _ g, Nat.shiftRight_eq_div_pow _ g, two_mul,
    pow_add, Nat.mod_mul_right_div_self]

/-- The lower half of a chunk is the chunk of half the width at the next index. -/
theorem chunk_two_mul_add_one : chunk g (2 * m) n (2 * q + 1) = chunk (2 * g) m n q % 2 ^ g := by
  have hplace : g * (2 * m - 1 - (2 * q + 1)) = 2 * g * (m - 1 - q) := by
    rw [show 2 * m - 1 - (2 * q + 1) = 2 * (m - 1 - q) by omega]
    ring
  rw [chunk, chunk, hplace, Nat.mod_mod_of_dvd _ (pow_dvd_pow 2 (by omega))]

end Halves

/-! ### The number from its chunks -/

/-- A number is its bits above place `g` joined to those below. -/
theorem shiftLeft_or_mod (n g : Nat) : (n >>> g) <<< g ||| n % 2 ^ g = n := by
  rw [← Nat.shiftLeft_add_eq_or_of_lt (Nat.mod_lt n (Nat.two_pow_pos g)), Nat.shiftLeft_eq, Nat.shiftRight_eq_div_pow,
    Nat.div_add_mod']

/-- The lowest `m` chunks of `g` bits, each at its place, add up to the lowest `g × m` bits. -/
theorem sum_places (g n m : Nat) :
    ∑ j ∈ Finset.range m, ((n >>> (g * j)) % 2 ^ g) <<< (g * j) = n % 2 ^ (g * m) := by
  induction m with
  | zero => simp [Nat.mod_one]
  | succ m ih =>
    rw [Finset.sum_range_succ, ih, Nat.mul_succ, pow_add, Nat.mod_mul, Nat.shiftLeft_eq, Nat.shiftRight_eq_div_pow,
      Nat.mul_comm (2 ^ (g * m))]

/-- The chunks shifted to their places add up to the number (42_wordview.md R116). -/
theorem sum_chunks {g m n : Nat} (hn : n < 2 ^ (g * m)) :
    ∑ k ∈ Finset.range m, chunk g m n k <<< (g * (m - 1 - k)) = n := by
  calc ∑ k ∈ Finset.range m, chunk g m n k <<< (g * (m - 1 - k))
    _ = ∑ j ∈ Finset.range m, ((n >>> (g * j)) % 2 ^ g) <<< (g * j) :=
      Finset.sum_range_reflect (fun j => ((n >>> (g * j)) % 2 ^ g) <<< (g * j)) m
    _ = n := by rw [sum_places, Nat.mod_eq_of_lt hn]

theorem joinWords_append_singleton (g : Granularity) (ws : List Nat) (w : Nat) :
    joinWords g (ws ++ [w]) = joinWords g ws <<< g.bits ||| w := by
  rw [joinWords, List.foldl_append]
  rfl

/-- The first `k` chunks joined are the number without the chunks after them. -/
theorem joinWords_chunks {g : Granularity} {m n k : Nat} (hn : n < 2 ^ (g.bits * m)) (hk : k ≤ m) :
    joinWords g ((List.range k).map (chunk g.bits m n)) = n >>> (g.bits * (m - k)) := by
  induction k with
  | zero => rw [Nat.shiftRight_eq_div_pow, Nat.sub_zero, Nat.div_eq_of_lt hn]; rfl
  | succ k ih =>
    have hplace : g.bits * (m - k) = g.bits * (m - (k + 1)) + g.bits := by
      rw [← Nat.mul_succ, Nat.succ_eq_add_one, show m - (k + 1) + 1 = m - k by omega]
    rw [List.range_succ, List.map_append, List.map_singleton, joinWords_append_singleton, ih (by omega), hplace,
      Nat.shiftRight_add, chunk, show m - 1 - k = m - (k + 1) by omega, shiftLeft_or_mod]

end Sys2Proof.Machine
end

section
/-! The words of a value by the formula and by the multiplexer (42_wordview.md R112 to R117), and the commands that answer
one (R121, R122). The two granularities are tied by `getWord_g32_two_mul` and its neighbour: a 64-bit word is two 32-bit
words, whatever the shape. -/

namespace Sys2Proof.Machine

/-! ### The formula -/

/-- At a natural index the formula gives the chunk inside the bounds and nothing outside (42_wordview.md R112). -/
theorem getWord_natCast (g : Granularity) (k : Nat) (x : Value) :
    getWord g k x =
      if k < numWords x.shape g then some (chunk g.bits (numWords x.shape g) x.toInteger k) else none := by
  have hbounds : ((k : Int) < 0 ∨ (numWords x.shape g : Int) ≤ k) ↔ ¬ k < numWords x.shape g := by omega
  simp only [getWord, hbounds, ite_not, chunk, Int.toNat_natCast]

theorem getWord_of_lt {g : Granularity} {k : Nat} {x : Value} (hk : k < numWords x.shape g) :
    getWord g k x = some (chunk g.bits (numWords x.shape g) x.toInteger k) := by
  rw [getWord_natCast, if_pos hk]

theorem getWord_eq_none_iff {g : Granularity} {index : Int} {x : Value} :
    getWord g index x = none ↔ index < 0 ∨ (numWords x.shape g : Int) ≤ index := by
  rw [getWord, ite_eq_left_iff, imp_iff_not (by simp), not_not]

theorem toInteger_lt_words (g : Granularity) (x : Value) : x.toInteger < 2 ^ (g.bits * numWords x.shape g) := by
  rw [Nat.mul_comm, numWords_mul_bits]
  exact toInteger_lt x

/-! ### A 64-bit word is two 32-bit words (42_wordview.md R116) -/

theorem numWords_g32 (s : Shape) : numWords s .g32 = 2 * numWords s .g64 := by cases s <;> rfl

/-- A 32-bit word is a part `f` of the 64-bit word it lies in if its chunk is; both exist or neither does. -/
theorem getWord_g32_eq_map {x : Value} {j q : Nat} (f : Nat → Nat) (hj : j / 2 = q)
    (hf : ∀ m, q < m → chunk 32 (2 * m) x.toInteger j = f (chunk 64 m x.toInteger q)) :
    getWord .g32 j x = (getWord .g64 q x).map f := by
  rw [getWord_natCast, getWord_natCast, numWords_g32]
  by_cases hq : q < numWords x.shape .g64
  · rw [if_pos (by omega), if_pos hq, Option.map_some]
    exact congrArg some (hf _ hq)
  · rw [if_neg (by omega), if_neg hq, Option.map_none]

theorem getWord_g32_two_mul (q : Nat) (x : Value) :
    getWord .g32 (2 * q : Nat) x = (getWord .g64 q x).map (· >>> 32) :=
  getWord_g32_eq_map _ (by omega) fun _ hq => chunk_two_mul 32 x.toInteger hq

theorem getWord_g32_two_mul_add_one (q : Nat) (x : Value) :
    getWord .g32 (2 * q + 1 : Nat) x = (getWord .g64 q x).map (· % 2 ^ 32) :=
  getWord_g32_eq_map _ (by omega) fun _ hq => chunk_two_mul_add_one 32 x.toInteger hq

/-! ### The native width (42_wordview.md R113) -/

theorem numWords_of_width {s : Shape} {g : Granularity} (h : s.width = g.bits) : numWords s g = s.arity := by
  rw [numWords, bitWidth, h, Nat.mul_div_cancel_left _ (by cases g <;> decide)]

/-- A view whose words are as wide as the elements gives the elements. -/
theorem getWord_of_shiftedSum {g : Granularity} {x : Value} {es : List (NativeWord g.bits)}
    (hw : x.shape.width = g.bits) (ha : x.shape.arity = es.length) (hx : x.toInteger = shiftedSum es) (k : Nat) :
    getWord g k x = es[k]?.map BitVec.toNat := by
  rw [getWord_natCast, numWords_of_width hw, ha, hx]
  rcases he : es[k]? with _ | e
  · rw [if_neg (Nat.not_lt.mpr (List.getElem?_eq_none_iff.mp he)), Option.map_none]
  · rw [if_pos (List.getElem?_eq_some_iff.mp he).1, chunk_shiftedSum he, Option.map_some]

theorem getWord_g32_w32 (t : Tuple 32) (k : Nat) : getWord .g32 k (.w32 t) = t.elems[k]?.map BitVec.toNat :=
  getWord_of_shiftedSum (g := .g32) (es := t.elems) (shape_width_w32 t) (shape_arity_w32 t) rfl k

theorem getWord_g64_w64 (t : Tuple 64) (k : Nat) : getWord .g64 k (.w64 t) = t.elems[k]?.map BitVec.toNat :=
  getWord_of_shiftedSum (g := .g64) (es := t.elems) (shape_width_w64 t) (shape_arity_w64 t) rfl k

/-! ### The multiplexer (42_wordview.md R114, R115) -/

/-- The half-select of an element is the 32-bit word of the view. -/
theorem muxWord32_w64 (t : Tuple 64) (k : Nat) :
    (muxWord32 k (.w64 t)).map BitVec.toNat = getWord .g32 k (.w64 t) := by
  obtain ⟨p, rfl | rfl⟩ := k.even_or_odd'
  · rw [getWord_g32_two_mul, getWord_g64_w64, muxWord32, Nat.mul_div_cancel_left p two_pos]
    cases t.elems[p]? <;> simp [halfSelect_toNat, Nat.shiftRight_eq_div_pow]
  · rw [getWord_g32_two_mul_add_one, getWord_g64_w64, muxWord32, show (2 * p + 1) / 2 = p by omega]
    cases t.elems[p]? <;> simp [halfSelect_toNat]

/-- Two elements joined are the 64-bit word of the view: its halves are the 32-bit words, which are the elements. -/
theorem muxWord64_w32 (t : Tuple 32) (q : Nat) :
    (muxWord64 q (.w32 t)).map BitVec.toNat = getWord .g64 q (.w32 t) := by
  have hhi := getWord_g32_two_mul q (.w32 t)
  have hlo := getWord_g32_two_mul_add_one q (.w32 t)
  rw [getWord_g32_w32] at hhi hlo
  rcases hw : getWord .g64 q (.w32 t) with _ | w
  · have hnone : t.elems[2 * q]? = none := by simpa [hw] using hhi
    simp [muxWord64, hnone]
  · obtain ⟨a, ha, haw⟩ : ∃ a, t.elems[2 * q]? = some a ∧ a.toNat = w >>> 32 := by simpa [hw] using hhi
    obtain ⟨b, hb, hbw⟩ : ∃ b, t.elems[2 * q + 1]? = some b ∧ b.toNat = w % 2 ^ 32 := by simpa [hw] using hlo
    simp only [muxWord64, ha, hb, Option.map_some, BitVec.toNat_append, haw, hbw, shiftLeft_or_mod]

theorem muxWord_eq_getWord (g : Granularity) (k : Nat) (x : Value) : muxWord g k x = getWord g k x := by
  cases g with
  | g32 =>
    cases x with
    | w32 t => exact (getWord_g32_w32 t k).symm
    | w64 t => exact muxWord32_w64 t k
  | g64 =>
    cases x with
    | w32 t => exact muxWord64_w32 t k
    | w64 t => exact (getWord_g64_w64 t k).symm

/-- Settles O24: at the native width both give the elements, and across widths both give halves or pairs of them. -/
theorem multiplexerIsTheFormula : Obligations.MultiplexerIsTheFormula := muxWord_eq_getWord

/-- Settles O25: the bounds of the formula, and those of the multiplexer, which is the formula. -/
theorem wordsExactlyInBounds : Obligations.WordsExactlyInBounds := by
  refine ⟨fun g index x => getWord_eq_none_iff, fun g k x => ?_⟩
  rw [muxWord_eq_getWord, getWord_eq_none_iff]
  omega

/-! ### The value from its words -/

theorem viewWords_eq (g : Granularity) (x : Value) :
    viewWords g x = (List.range (numWords x.shape g)).map (chunk g.bits (numWords x.shape g) x.toInteger) :=
  List.filterMap_eq_map_iff_forall_eq_some.mpr fun _ hk => getWord_of_lt (List.mem_range.mp hk)

theorem joinWords_viewWords (g : Granularity) (x : Value) : joinWords g (viewWords g x) = x.toInteger := by
  rw [viewWords_eq, joinWords_chunks (toInteger_lt_words g x) le_rfl, Nat.sub_self, Nat.mul_zero, Nat.shiftRight_zero]

theorem sum_getWord (g : Granularity) (x : Value) :
    ∑ k ∈ Finset.range (numWords x.shape g),
      ((getWord g (k : Int) x).getD 0) <<< (g.bits * (numWords x.shape g - 1 - k)) = x.toInteger := by
  refine (Finset.sum_congr rfl fun k hk => ?_).trans (sum_chunks (toInteger_lt_words g x))
  rw [getWord_of_lt (Finset.mem_range.mp hk), Option.getD_some]

/-- Settles O26: the chunks joined and the chunks added, and the halves of a 64-bit word. -/
theorem viewsReconstructTheValue : Obligations.ViewsReconstructTheValue := by
  refine ⟨fun g x => ⟨?length, joinWords_viewWords g x, sum_getWord g x⟩, fun q x w hw => ?halves⟩
  case length => rw [viewWords_eq, List.length_map, List.length_range]
  case halves =>
    refine ⟨w >>> 32, w % 2 ^ 32, ?_, ?_, (shiftLeft_or_mod w 32).symm⟩
    · rw [getWord_g32_two_mul, hw, Option.map_some]
    · rw [getWord_g32_two_mul_add_one, hw, Option.map_some]

/-- Settles O27: the halves of the 64-bit word, the multiplexer's pair, and the native width. -/
theorem crossWidthSlicing : Obligations.CrossWidthSlicing := by
  refine ⟨fun t p e he => ⟨?high, ?low⟩, fun t q a b ha hb => ?joined,
    fun t k e he => ?native32, fun t k e he => ?native64⟩
  case high => rw [getWord_g32_two_mul, getWord_g64_w64, he, Option.map_some, Option.map_some]
  case low => rw [getWord_g32_two_mul_add_one, getWord_g64_w64, he, Option.map_some, Option.map_some]
  case joined => rw [← muxWord64_w32, muxWord64, ha, hb, Option.map_some, BitVec.toNat_append]
  case native32 => rw [getWord_g32_w32, he, Option.map_some]
  case native64 => rw [getWord_g64_w64, he, Option.map_some]

/-! ### GETW32 and GETW64 -/

/-- A view command on a running unit with a valid source and an index in bounds answers the chunk without loss, and
registers and FSR are kept (42_wordview.md R121, R122). -/
theorem readView_completes {g : Granularity} {rs : Reg} {w : CmdWord} {word : Value → Option (BitVec g.bits)} {k : Nat}
    {s : State} {x : Value} (hr : Safe s) (hx : s.v.read rs = .valid x) (hk : k < numWords x.shape g)
    (hword : (word x).map BitVec.toNat = muxWord g k x) :
    ∃ t d, readView rs w word s = .next t ∧ d.toNat = chunk g.bits (numWords x.shape g) x.toInteger k ∧ t.v = s.v ∧
      t.fsr = s.fsr ∧ Answered .ok d s t := by
  rw [muxWord_eq_getWord, getWord_of_lt hk] at hword
  obtain ⟨d, hd, hchunk⟩ := Option.map_eq_some_iff.mp hword
  have hbus : d.toNat < 2 ^ 256 := d.isLt.trans_le (Nat.pow_le_pow_right two_pos (by cases g <;> decide))
  rw [readView_word hr hx hd, ← hchunk]
  exact answer_completes s hbus

/-- Settles O33: the multiplexer's word is the chunk. -/
theorem getw32AnswersTheWord : Obligations.Getw32AnswersTheWord :=
  fun _ _ _ _ hr hx hk => readView_completes (g := .g32) hr hx hk rfl

/-- Settles O34: the multiplexer's word is the chunk. -/
theorem getw64AnswersTheWord : Obligations.Getw64AnswersTheWord :=
  fun _ _ _ _ hr hx hk => readView_completes (g := .g64) hr hx hk rfl

end Sys2Proof.Machine
end

section
/-! Exceptions (60_exceptions.md): each check of R136 on an instruction, the same checks read off the command word, and
what a command answers when one fails (R131 to R133, R137 to R139) or none does. -/

namespace Sys2Proof.Machine

/-! ### Fault entry and the checks made before the word is decoded -/

theorem answered_raise (k : FaultKind) (w : CmdWord) (s : State) : Answered k.status 0 s (raise k w s) :=
  ⟨rfl, rfl, rfl, rfl, rfl⟩

theorem illegal_halted {w : CmdWord} {s : State} (h : s.fsr.f = true) : illegal w s = .next (respond .halted 0 s) :=
  unlessHalted_halted h

theorem illegal_running {w : CmdWord} {s : State} (hr : s.fsr.f = false) :
    illegal w s = .next (raise .illegalCommand w s) := unlessHalted_running hr

/-- A halted unit answers HALTED to every command word (60_exceptions.md R139). -/
theorem execute_halted (c : Command) {s : State} (h : s.fsr.f = true) : execute c s = .next (respond .halted 0 s) := by
  obtain ⟨i, -, hx⟩ | ⟨r, -, hx⟩ := execute_cases c s
  · rw [hx, exec_halted i h]
  · rw [hx, illegal_halted h]

/-- A word that decodes matches a row of the opcode table, and no other word does (30_encoding.md R66). -/
theorem legalWord_iff_decodes (w : CmdWord) (b : Bus) : legalWord w = true ↔ ∃ i, decode w b = .ok i := by
  simp only [legalWord, OpRow.hits, List.any_eq_true, beq_iff_eq]
  exact (decoderAcceptsExactlyTheTableRows.1 w b).symm

/-- A word without a row is an illegal command, whatever is on the bus (60_exceptions.md R132). -/
theorem execute_of_not_legalWord {c : Command} (s : State) (h : legalWord c.cmd = false) :
    execute c s = illegal c.cmd s := by
  obtain ⟨i, hd, -⟩ | ⟨r, -, hx⟩ := execute_cases c s
  · simp [(legalWord_iff_decodes c.cmd c.cmdInt).mpr ⟨i, hd⟩] at h
  · exact hx

theorem execute_illegal_running {c : Command} {s : State} (hr : s.fsr.f = false) (h : legalWord c.cmd = false) :
    execute c s = .next (raise .illegalCommand c.cmd s) := by
  rw [execute_of_not_legalWord s h, illegal_running hr]

/-! ### The checks of an instruction -/

/-- What an instruction reads through a word view: register, granularity, index. It is the view its meaning reads
(`exec_eq_readView`), and it stands in the command word (`viewOf_of_decode_ok`). -/
def viewOf : Instr → Option (Reg × Granularity × Idx)
  | .fromint _ _ _ => none
  | .toint _ => none
  | .bitw _ => none
  | .inc _ _ => none
  | .skip _ _ _ => none
  | .numw32 _ => none
  | .numw64 _ => none
  | .getw32 rs idx => some (rs, .g32, idx)
  | .getw64 rs idx => some (rs, .g64, idx)

/-- An instruction with a view answers the multiplexer's word (42_wordview.md R114, R115). -/
theorem exec_eq_readView {i : Instr} {rs : Reg} {g : Granularity} {idx : Idx} (s : State)
    (hv : viewOf i = some (rs, g, idx)) :
    ∃ word : Value → Option (BitVec g.bits), (∀ x, (word x).map BitVec.toNat = muxWord g idx.toNat x) ∧
      exec i s = readView rs (encodeWord i) word s := by
  cases i with
  | getw32 rs idx =>
    cases hv
    exact ⟨muxWord32 idx.toNat, fun _ => rfl, rfl⟩
  | getw64 rs idx =>
    cases hv
    exact ⟨muxWord64 idx.toNat, fun _ => rfl, rfl⟩
  | _ => cases hv

/-- The source check: a running unit takes UnwrittenRegister on an invalid source (60_exceptions.md R133). -/
theorem exec_of_source_invalid {i : Instr} {rs : Reg} {s : State} (hr : s.fsr.f = false) (hsrc : sourceOf i = some rs)
    (h : s.v.read rs = .invalid) : exec i s = .next (raise .unwrittenRegister (encodeWord i) s) := by
  cases i with
  | toint => cases hsrc; exact execToint_invalid hr h
  | inc | skip => cases hsrc; exact compute_invalid hr h
  | getw32 | getw64 => cases hsrc; exact readView_invalid hr h
  | fromint | bitw | numw32 | numw64 => cases hsrc

/-- The index check: a running unit takes InvalidIndex when the view has no word at the index, the multiplexer having
none outside the bounds (60_exceptions.md R131, 42_wordview.md R117). -/
theorem exec_of_index_outside {i : Instr} {rs : Reg} {g : Granularity} {idx : Idx} {s : State} {x : Value}
    (hr : s.fsr.f = false) (hv : viewOf i = some (rs, g, idx)) (hx : s.v.read rs = .valid x)
    (hk : numWords x.shape g ≤ idx.toNat) : exec i s = .next (raise .invalidIndex (encodeWord i) s) := by
  obtain ⟨word, hword, hexec⟩ := exec_eq_readView s hv
  have hnone : word x = none := by
    rw [← Option.map_eq_none_iff, hword, wordsExactlyInBounds.2]
    exact hk
  rw [hexec, readView_outside hr hx hnone]

/-- With both checks passed a running unit answers OK. -/
theorem exec_of_checks_pass {i : Instr} {s : State} (hr : s.fsr.f = false)
    (hsrc : ∀ rs, sourceOf i = some rs → s.v.read rs ≠ .invalid)
    (hidx : ∀ rs g idx x, viewOf i = some (rs, g, idx) → s.v.read rs = .valid x → idx.toNat < numWords x.shape g) :
    ∃ t d, exec i s = .next t ∧ Answered .ok d s t := by
  have hvalid {rs : Reg} (h : sourceOf i = some rs) : ∃ x, s.v.read rs = .valid x := by
    rcases hx : s.v.read rs with _ | x
    · exact absurd hx (hsrc rs h)
    · exact ⟨x, rfl⟩
  cases i with
  | fromint => exact ⟨_, _, execFromint_running hr, answered_respond _ _ _⟩
  | bitw | numw32 | numw64 => exact ⟨_, _, query_running hr, answered_respond _ _ _⟩
  | toint =>
    obtain ⟨x, hx⟩ := hvalid rfl
    exact ⟨_, _, execToint_valid hr hx, answered_respond _ _ _⟩
  | inc | skip =>
    obtain ⟨x, hx⟩ := hvalid rfl
    exact ⟨_, _, compute_valid hr hx, answered_respond _ _ _⟩
  | getw32 rs idx =>
    obtain ⟨x, hx⟩ := hvalid rfl
    obtain ⟨t, d, hexec, -, -, -, ha⟩ := getw32AnswersTheWord rs idx s x hr hx (hidx _ _ _ x rfl hx)
    exact ⟨t, d, hexec, ha⟩
  | getw64 rs idx =>
    obtain ⟨x, hx⟩ := hvalid rfl
    obtain ⟨t, d, hexec, -, -, -, ha⟩ := getw64AnswersTheWord rs idx s x hr hx (hidx _ _ _ x rfl hx)
    exact ⟨t, d, hexec, ha⟩

/-! ### The checks read off the command word -/

/-- Bit 12 of a word is the lowest bit of its opcode. -/
theorem getLsbD_twelve_eq_opField (w : CmdWord) : w.getLsbD 12 = (opField w).getLsbD 0 := by
  simp [opField]

/-- The word of a command says by its opcode whether it has a source register, which stands in `rs` (10_state.md R29). -/
theorem sourceOf_of_decode_ok {w : CmdWord} {b : Bus} {i : Instr} (hd : decode w b = .ok i) :
    sourceOf i = if readsSource w then some (regOfNum (rsField w)) else none := by
  obtain ⟨⟨hop, -⟩, hi⟩ := decode_eq_ok_iff.mp hd
  rw [readsSource, hop, ← hi]
  cases i <;> rfl

/-- The word of a command says by its opcode whether it has a view and of which granularity; register and index stand
in `rs` and `imm8` (30_encoding.md R64, R65). -/
theorem viewOf_of_decode_ok {w : CmdWord} {b : Bus} {i : Instr} (hd : decode w b = .ok i) :
    viewOf i =
      if takesIndex w then some (regOfNum (rsField w), wordGranularity w, immField w) else none := by
  obtain ⟨⟨hop, -⟩, hi⟩ := decode_eq_ok_iff.mp hd
  rw [takesIndex, wordGranularity, getLsbD_twelve_eq_opField, hop, ← hi]
  cases i <;> simp [viewOf, Instr.withFields, Instr.opcode]

theorem indexOutside_eq_true_iff {w : CmdWord} {c : RegContent} :
    indexOutside w c = true ↔
      ∃ x, c = .valid x ∧ numWords x.shape (wordGranularity w) ≤ (immField w).toNat := by
  cases c <;> simp [indexOutside]

/-- On a running unit a word that decodes answers the status of the first check that fails (60_exceptions.md R136). -/
theorem exec_answers_expectedStatus {w : CmdWord} {b : Bus} {i : Instr} {s : State} (hr : s.fsr.f = false)
    (hd : decode w b = .ok i) : ∃ t d, exec i s = .next t ∧ Answered (expectedStatus w s) d s t := by
  have hlegal : legalWord w = true := (legalWord_iff_decodes w b).mpr ⟨i, hd⟩
  have hsource := sourceOf_of_decode_ok hd
  have hview := viewOf_of_decode_ok hd
  simp only [expectedStatus, hr, hlegal, Bool.not_true, Bool.false_eq_true, if_false]
  split_ifs with hunwritten houtside
  · obtain ⟨hreads, hinvalid⟩ := Bool.and_eq_true_iff.mp hunwritten
    rw [if_pos hreads] at hsource
    exact ⟨_, _, exec_of_source_invalid hr hsource (eq_of_beq hinvalid), answered_raise _ _ _⟩
  · obtain ⟨htakes, hindex⟩ := Bool.and_eq_true_iff.mp houtside
    obtain ⟨x, hx, hk⟩ := indexOutside_eq_true_iff.mp hindex
    rw [if_pos htakes] at hview
    exact ⟨_, _, exec_of_index_outside hr hview hx hk, answered_raise _ _ _⟩
  · refine exec_of_checks_pass hr (fun rs hrs hinvalid => ?_) (fun rs g idx x hv hx => ?_)
    · obtain ⟨hreads, rfl⟩ : readsSource w = true ∧ regOfNum (rsField w) = rs := by simpa [hsource] using hrs
      exact hunwritten (by simp [hreads, hinvalid])
    · obtain ⟨htakes, rfl, rfl, rfl⟩ : takesIndex w = true ∧ regOfNum (rsField w) = rs ∧ wordGranularity w = g ∧
          immField w = idx := by simpa [hview] using hv
      have hin : indexOutside w (s.v.read (regOfNum (rsField w))) ≠ true := by simpa [htakes] using houtside
      exact Nat.lt_of_not_le fun hk => hin (indexOutside_eq_true_iff.mpr ⟨x, hx, hk⟩)

/-- Every command on every state answers the status of the first check that fails (60_exceptions.md R136). -/
theorem execute_answers_expectedStatus (c : Command) (s : State) :
    ∃ t d, execute c s = .next t ∧ Answered (expectedStatus c.cmd s) d s t := by
  rcases hf : s.fsr.f with _ | _
  · rcases hlegal : legalWord c.cmd with _ | _
    · have hstatus : expectedStatus c.cmd s = .illegalCommand := by simp [expectedStatus, hf, hlegal]
      rw [hstatus]
      exact ⟨_, _, execute_illegal_running hf hlegal, answered_raise _ _ _⟩
    · obtain ⟨i, hd⟩ := (legalWord_iff_decodes c.cmd c.cmdInt).mp hlegal
      rw [execute_of_decode_ok s hd]
      exact exec_answers_expectedStatus hf hd
  · have hstatus : expectedStatus c.cmd s = .halted := by simp [expectedStatus, hf]
    rw [hstatus]
    exact ⟨_, _, execute_halted c hf, answered_respond _ _ _⟩

/-- A next state of a command is the HALTED answer, a fault, or the answer OK. -/
theorem execute_next_cases {c : Command} {s t : State} (h : execute c s = .next t) :
    t = respond .halted 0 s ∨ (∃ k w, t = raise k w s) ∨ ∃ d u, t = respond .ok d u := by
  obtain ⟨i, -, hx⟩ | ⟨r, -, hx⟩ := execute_cases c s
  · obtain rfl | he := exec_next_cases (hx ▸ h)
    · exact .inl rfl
    · cases he with
      | wrote | told => exact .inr (.inr ⟨_, _, rfl⟩)
      | unwritten | outside => exact .inr (.inl ⟨_, _, rfl⟩)
  · obtain rfl | rfl := illegal_next_cases (hx ▸ h)
    · exact .inl rfl
    · exact .inr (.inl ⟨_, _, rfl⟩)

/-! ### The obligations -/

/-- Settles O37: such a word does not decode, so it is illegal, and fault entry does the rest. -/
theorem unmatchedWordTakesIllegalCommand : Obligations.UnmatchedWordTakesIllegalCommand := by
  intro c s hr h
  have hlegal : legalWord c.cmd = false := by simpa [legalWord, OpRow.hits] using h
  exact ⟨_, execute_illegal_running hr hlegal, rfl, rfl, answered_raise _ _ _⟩

/-- Settles O39: both granularities are views without a word at the index. -/
theorem indexOutsideTakesInvalidIndex : Obligations.IndexOutsideTakesInvalidIndex := by
  refine ⟨fun rs idx s x hr hx hk => ?_, fun rs idx s x hr hx hk => ?_⟩
  all_goals exact ⟨_, exec_of_index_outside hr rfl hx hk, rfl, rfl, answered_raise _ _ _⟩

/-- Settles O41: the one response answered has the expected status. -/
theorem checksInPriorityOrder : Obligations.ChecksInPriorityOrder := by
  intro c s
  obtain ⟨t, d, hexec, hrsp, hresponses, -⟩ := execute_answers_expectedStatus c s
  exact ⟨t, ⟨expectedStatus c.cmd s, d⟩, hexec, hrsp, hresponses, rfl⟩

/-- Settles O38: the source check comes before any write. -/
theorem invalidSourceTakesUnwrittenRegister : Obligations.InvalidSourceTakesUnwrittenRegister := by
  intro i rs s hr hsrc h
  exact ⟨_, exec_of_source_invalid hr hsrc h, rfl, rfl, answered_raise _ _ _⟩

/-- Settles O40: the halted check is the first one of a word that decodes and of one that does not. -/
theorem haltedUnitOnlyAnswersHalted : Obligations.HaltedUnitOnlyAnswersHalted := by
  refine ⟨fun c s h => ?_, fun i s h => ?_⟩
  · exact ⟨_, execute_halted c (Bool.eq_true_of_not_eq_false h), rfl, rfl, answered_respond _ _ _⟩
  · exact ⟨_, exec_halted i (Bool.eq_true_of_not_eq_false h), rfl, rfl, answered_respond _ _ _⟩

/-- Settles O42: neither the HALTED answer nor fault entry touches a register or carries data, and what is left is OK. -/
theorem faultsArePrecise : Obligations.FaultsArePrecise := by
  intro c s t r h hr hne
  obtain rfl | ⟨k, w, rfl⟩ | ⟨d, u, rfl⟩ := execute_next_cases h
  · cases hr
    exact ⟨rfl, rfl⟩
  · cases hr
    exact ⟨rfl, rfl⟩
  · cases hr
    exact absurd rfl hne

/-- Settles O52: the edge idles, which only stops showing a response. -/
theorem idleEdgeKeepsAllState : Obligations.IdleEdgeKeepsAllState := by
  intro i s hi hr hv
  have hready : cmdReady false (idle (tick s)) = true := by simp [cmdReady, State.busy, hi]
  exact ⟨_, edge_of_no_command hr hi hv, rfl, rfl, hi, rfl, hready, rfl, rfl, rfl⟩

end Sys2Proof.Machine
end

section
/-! Reset (70_reset_and_hazards.md R155 to R158): what it leaves, and that nothing else clears FSR of a halted unit or
invalidates a register. -/

namespace Sys2Proof.Machine

/-! ### What every event but a reset keeps -/

/-- Between `s` and `t` FSR of a halted unit is kept, and a valid register stays valid (70_reset_and_hazards.md R155). -/
abbrev Persists (s t : State) : Prop :=
  (s.fsr.f = true → t.fsr = s.fsr) ∧ ∀ r, s.v.read r ≠ .invalid → t.v.read r ≠ .invalid

theorem persists_of_eq {s t : State} (hv : t.v = s.v) (hfsr : t.fsr = s.fsr) : Persists s t :=
  ⟨fun _ => hfsr, fun r h => by rwa [hv]⟩

/-- A write makes a register valid and leaves the others as they are (10_state.md R29). -/
theorem read_write_ne_invalid {v : RegFile} {r : Reg} (rd : Reg) (x : Value) (h : v.read r ≠ .invalid) :
    (v.write rd x).read r ≠ .invalid := by
  by_cases hr : r = rd
  · simp [hr]
  · rwa [read_write_other v x hr]

/-- A command keeps the register file or writes one register of it. -/
theorem execute_v {c : Command} {s t : State} (h : execute c s = .next t) :
    t.v = s.v ∨ ∃ rd x, t.v = s.v.write rd x := by
  obtain ⟨i, -, hx⟩ | ⟨r, -, hx⟩ := execute_cases c s
  · obtain hv | ⟨rd, x, -, hv⟩ := exec_v (hx ▸ h)
    · exact .inl hv
    · exact .inr ⟨rd, x, hv⟩
  · obtain rfl | rfl := illegal_next_cases (hx ▸ h)
    · exact .inl rfl
    · exact .inl rfl

theorem persists_execute {c : Command} {s t : State} (h : execute c s = .next t) : Persists s t := by
  constructor
  · intro hf
    cases (execute_halted c hf).symm.trans h
    rfl
  · intro r hr
    obtain hv | ⟨rd, x, hv⟩ := execute_v h
    · rwa [hv]
    · rw [hv]
      exact read_write_ne_invalid rd x hr

theorem persists_advance {p : InFlight} {s t : State} (h : advance p s = .next t) : Persists s t := by
  obtain ⟨c, _ | n⟩ := p
  · exact persists_execute h
  · cases h
    exact persists_of_eq rfl rfl

/-! ### The reset state -/

theorem fsr_bits_reset : Fsr.reset.bits = 0 := by decide

theorem unitReset_resetUnit (s : State) : UnitReset (resetUnit s) := ⟨read_reset, fsr_bits_reset, rfl, rfl⟩

theorem unitReset_reset : UnitReset State.reset := ⟨read_reset, fsr_bits_reset, rfl, rfl⟩

/-- Settles O46: an edge without reset advances the command in flight, or accepts one, or idles. -/
theorem onlyResetClearsFsrAndInvalidates : Obligations.OnlyResetClearsFsrAndInvalidates := by
  refine ⟨fun i s hr => ⟨_, edge_of_rst hr, unitReset_resetUnit _⟩, fun i s t hr h => ?_⟩
  rcases hi : s.inflight with _ | p
  · rcases hv : i.cmdValid with _ | _
    · cases (edge_of_no_command hr hi hv).symm.trans h
      exact persists_of_eq rfl rfl
    · cases (edge_of_command hr hi hv).symm.trans h
      exact persists_of_eq rfl rfl
  · rw [edge_of_inflight hr hi] at h
    exact persists_advance (s := tick s) h

/-- Settles O54: such a step finishes the command in flight, or carries out a presented one, or idles. -/
theorem stepsWithoutResetKeepFsrAndValidity : Obligations.StepsWithoutResetKeepFsrAndValidity := by
  intro s t hno h
  rcases hi : s.inflight with _ | p
  · rcases hh : s.host with _ | ⟨_ | _, es⟩
    · cases (step_of_no_event hi hh).symm.trans h
      exact persists_of_eq rfl rfl
    · rw [step_of_command hi hh] at h
      exact persists_execute (s := accept _ { tick s with host := es }) h
    · simp [hi, hh] at hno
  · rw [step_of_inflight hi] at h
    exact persists_execute (s := tick s) h

/-- Settles O1: the edge idles, and idling changes none of the fields in question. -/
theorem resetIsInvalidRegistersAndIdle : Obligations.ResetIsInvalidRegistersAndIdle := by
  refine ⟨unitReset_reset, rfl, fun cmd int => ⟨_, edge_of_no_command rfl rfl rfl, ?_, rfl, rfl⟩⟩
  exact unitReset_reset

/-- Settles O53: the event is carried through as `resetUnit`, which leaves the model's own fields alone. -/
theorem resetEventIsOneStep : Obligations.ResetEventIsOneStep := by
  intro s es hi hh
  exact ⟨_, step_of_event hi hh, unitReset_resetUnit _, rfl, rfl, rfl, rfl⟩

/-- Settles O47: every register is invalid, so a source register faults, and without one there is nothing to check. -/
theorem firstCommandAfterReset : Obligations.FirstCommandAfterReset := by
  intro i
  have hinvalid (r : Reg) : State.reset.v.read r = .invalid := read_reset r
  rcases hsrc : sourceOf i with _ | rs
  · have hidx (rs : Reg) (g : Granularity) (idx : Idx) (x : Value) (_ : viewOf i = some (rs, g, idx))
        (hx : State.reset.v.read rs = .valid x) : idx.toNat < numWords x.shape g := by simp [hinvalid] at hx
    obtain ⟨t, d, hexec, hrsp, -⟩ := exec_of_checks_pass (s := State.reset) rfl (by simp [hsrc]) hidx
    exact ⟨t, d, hexec, hrsp⟩
  · exact ⟨_, 0, exec_of_source_invalid rfl hsrc (hinvalid rs), rfl⟩

end Sys2Proof.Machine
end

section
/-! The command port (70_reset_and_hazards.md R157, R159 to R161): a busy unit, a shown response, and a command in flight
over any number of waiting edges. -/

namespace Sys2Proof.Machine

/-- Settles O48: both edges advance the command in flight. -/
theorem busyUnitAcceptsNothing : Obligations.BusyUnitAcceptsNothing := by
  intro i j s hbusy hri hrj
  obtain ⟨p, hp⟩ := Option.isSome_iff_exists.mp hbusy
  exact ⟨by simp [cmdReady, hbusy], by rw [edge_of_inflight hri hp, edge_of_inflight hrj hp]⟩

/-- Settles O49: no command is in flight beside a shown response, so the edge resets, accepts or idles, and each ends the
response cycle. -/
theorem responseIsShownForOneCycle : Obligations.ResponseIsShownForOneCycle := by
  intro i s t r hinv hrsp h
  have hi : s.inflight = none := by
    by_contra hne
    simp [hinv.quiet hne] at hrsp
  rcases hr : i.rst with _ | _
  · rcases hv : i.cmdValid with _ | _
    · cases (edge_of_no_command hr hi hv).symm.trans h
      rfl
    · cases (edge_of_command hr hi hv).symm.trans h
      rfl
  · cases (edge_of_rst hr).symm.trans h
    rfl

/-- Settles O55: the three branches of the edge; a step, too, carries out the command in flight. -/
theorem clockEdgeAcceptsWaitsAndRuns : Obligations.ClockEdgeAcceptsWaitsAndRuns := by
  refine ⟨?accepts, ?waits, ?runs⟩
  case accepts =>
    intro i s hi hr hv
    exact ⟨_, edge_of_command hr hi hv, rfl, rfl, rfl, rfl, rfl⟩
  case waits =>
    intro i s c n hp hr
    exact ⟨_, edge_of_inflight hr hp, rfl, rfl, rfl, rfl, rfl⟩
  case runs =>
    intro i s c hp hr
    have hrun : edge i s = execute c (tick s) := edge_of_inflight hr hp
    exact ⟨hrun, by rw [hrun, step_of_inflight hp]⟩

/-! ### A command in flight -/

/-- The unit `s` with `c` in flight and `n` waiting cycles left, `k` edges after it was idle. It is what an accepting edge
(`edge_presenting`) and waiting edges (`edges_waiting`) lead to. -/
def waiting (c : Command) (n k : Nat) (s : State) : State :=
  { s with inflight := some ⟨c, n⟩, rsp := none, fresh := s.fresh + k }

@[simp] theorem waiting_inflight (c : Command) (n k : Nat) (s : State) :
    (waiting c n k s).inflight = some ⟨c, n⟩ := rfl

theorem edge_presenting {c : Command} {s : State} (hi : s.inflight = none) :
    edge (presenting c) s = .next (waiting c (Config.extraLatency (tick s) c) 1 s) :=
  edge_of_command rfl hi rfl

theorem edge_waiting_succ {i : PinIn} (hr : i.rst = false) (c : Command) (n k : Nat) (s : State) :
    edge i (waiting c (n + 1) k s) = .next (waiting c n (k + 1) s) :=
  edge_of_inflight hr (waiting_inflight c (n + 1) k s)

theorem edge_waiting_zero {i : PinIn} (hr : i.rst = false) (c : Command) (k : Nat) (s : State) :
    edge i (waiting c 0 k s) = execute c (waiting c 0 (k + 1) s) :=
  edge_of_inflight hr (waiting_inflight c 0 k s)

theorem edges_cons {i : PinIn} {is : List PinIn} {s t : State} (h : edge i s = .next t) :
    edges (i :: is) s = edges is t := by
  rw [edges, h]

theorem edges_append {is js : List PinIn} {s t : State} (h : edges is s = .next t) :
    edges (is ++ js) s = edges js t := by
  induction is generalizing s with
  | nil =>
    cases h
    rfl
  | cons i is ih =>
    rcases he : edge i s with u | r | r
    · rw [edges_cons he] at h
      rw [List.cons_append, edges_cons he, ih h]
    · simp [edges, he] at h
    · simp [edges, he] at h

theorem edges_singleton (i : PinIn) (s : State) : edges [i] s = edge i s := by
  rw [edges]
  rcases edge i s with u | r | r <;> rfl

/-- Each edge without reset counts one waiting cycle down and does nothing else, whatever is on the pins. -/
theorem edges_waiting {waits : List PinIn} (hw : ∀ j ∈ waits, j.rst = false) (c : Command) (n k : Nat) (s : State) :
    edges waits (waiting c (n + waits.length) k s) = .next (waiting c n (k + waits.length) s) := by
  induction waits generalizing k with
  | nil => rfl
  | cons j js ih =>
    obtain ⟨hj, hjs⟩ := List.forall_mem_cons.mp hw
    rw [List.length_cons, ← Nat.add_assoc, edges_cons (edge_waiting_succ hj c _ k s), ih hjs,
      Nat.add_assoc, Nat.add_comm 1]

/-- A command accepted and then fewer edges than its latency: it is still in flight. -/
theorem edges_presenting {c : Command} {waits : List PinIn} {s : State} (hi : s.inflight = none)
    (hw : ∀ j ∈ waits, j.rst = false) (hlen : waits.length < latency c s) :
    edges (presenting c :: waits) s =
      .next (waiting c (latency c s - 1 - waits.length) (1 + waits.length) s) := by
  have hextra : Config.extraLatency (tick s) c = latency c s - 1 - waits.length + waits.length := by
    rw [latency] at hlen ⊢
    omega
  rw [edges_cons (edge_presenting hi), hextra, edges_waiting hw]

/-- Settles O50: up to the counter nothing of the abandoned command is left for a reset to keep. -/
theorem resetAbandonsTheCommandInFlight : Obligations.ResetAbandonsTheCommandInFlight := by
  intro c waits i s hi hr hw hlen
  exact ⟨_, _, _, edges_presenting hi hw hlen, rfl, edge_of_rst hr, edge_of_rst hr, unitReset_resetUnit _, rfl, rfl, rfl⟩

end Sys2Proof.Machine
end

section
/-! A command's effect depends on the value registers and FSR alone, not on the moment at which it is carried out; so the
pins and the transaction agree (70_reset_and_hazards.md R159, R161, R167). -/

namespace Sys2Proof.Machine

/-! ### Effects -/

/-- What a command carried out leaves: value registers, FSR, and its response. -/
structure Effect where
  v : RegFile
  fsr : Fsr
  response : Response

/-- The unit after an effect. -/
def Effect.on (e : Effect) (s : State) : State :=
  respond e.response.status e.response.data { s with v := e.v, fsr := e.fsr }

/-- An operation has one effect on all states with the same value registers and FSR. -/
def EffectFromVAndFsr (m : State → Result) : Prop :=
  ∀ s : State, ∃ e : Effect, ∀ s' : State, s'.v = s.v → s'.fsr = s.fsr → m s' = .next (e.on s')

theorem effect_respond (st : Status) (d : Bus) : EffectFromVAndFsr fun s => .next (respond st d s) :=
  fun s => ⟨⟨s.v, s.fsr, ⟨st, d⟩⟩, fun s' hv hfsr => by rw [← hv, ← hfsr]; rfl⟩

theorem effect_raise (k : FaultKind) (w : CmdWord) : EffectFromVAndFsr fun s => .next (raise k w s) :=
  fun s => ⟨⟨s.v, ⟨true, k.cause, w⟩, ⟨k.status, 0⟩⟩, fun s' hv _ => by rw [← hv]; rfl⟩

theorem effect_store (rd : Reg) (x : Value) : EffectFromVAndFsr (store rd x) :=
  fun s => ⟨⟨s.v.write rd x, s.fsr, ⟨.ok, 0⟩⟩, fun s' hv hfsr => by rw [← hv, ← hfsr]; rfl⟩

theorem effect_answer (n : Nat) : EffectFromVAndFsr (answer n) := effect_respond .ok _

theorem effect_unlessHalted {m : State → Result} (hm : EffectFromVAndFsr m) :
    EffectFromVAndFsr fun s => unlessHalted s (m s) := by
  intro s
  rcases hf : s.fsr.f with _ | _
  · obtain ⟨e, he⟩ := hm s
    exact ⟨e, fun s' hv hfsr => (unlessHalted_running (hfsr ▸ hf)).trans (he s' hv hfsr)⟩
  · obtain ⟨e, he⟩ := effect_respond .halted 0 s
    exact ⟨e, fun s' hv hfsr => (unlessHalted_halted (hfsr ▸ hf)).trans (he s' hv hfsr)⟩

theorem effect_withSource {body : Value → State → Result} (rs : Reg) (w : CmdWord)
    (hb : ∀ x, EffectFromVAndFsr (body x)) :
    EffectFromVAndFsr fun s => withSource rs w s fun x => body x s := by
  intro s
  rcases hx : s.v.read rs with _ | x
  · obtain ⟨e, he⟩ := effect_raise .unwrittenRegister w s
    exact ⟨e, fun s' hv hfsr => (withSource_invalid (hv ▸ hx)).trans (he s' hv hfsr)⟩
  · obtain ⟨e, he⟩ := hb x s
    exact ⟨e, fun s' hv hfsr => (withSource_valid (hv ▸ hx)).trans (he s' hv hfsr)⟩

theorem effect_compute (rd rs : Reg) (w : CmdWord) (f : Value → Value) : EffectFromVAndFsr (compute rd rs w f) :=
  effect_unlessHalted (effect_withSource rs w fun x => effect_store rd (f x))

theorem effect_query (n : Nat) : EffectFromVAndFsr (query n) := effect_unlessHalted (effect_answer n)

theorem effect_readView {g : Nat} (rs : Reg) (w : CmdWord) (word : Value → Option (BitVec g)) :
    EffectFromVAndFsr (readView rs w word) := by
  refine effect_unlessHalted (effect_withSource rs w fun x => ?_)
  cases word x with
  | some d => exact effect_answer d.toNat
  | none => exact effect_raise .invalidIndex w

theorem effect_exec (i : Instr) : EffectFromVAndFsr (exec i) := by
  cases i with
  | fromint rd sh n => exact effect_unlessHalted (effect_store rd _)
  | toint rs => exact effect_unlessHalted (effect_withSource rs _ fun x => effect_answer _)
  | bitw | numw32 | numw64 => exact effect_query _
  | inc | skip => exact effect_compute _ _ _ _
  | getw32 | getw64 => exact effect_readView _ _ _

theorem effect_execute (c : Command) : EffectFromVAndFsr (execute c) := by
  rcases hd : decode c.cmd c.cmdInt with r | i
  · rw [show execute c = illegal c.cmd from funext fun s => execute_of_decode_error s hd]
    exact effect_unlessHalted (effect_raise .illegalCommand c.cmd)
  · rw [show execute c = exec i from funext fun s => execute_of_decode_ok s hd]
    exact effect_exec i

/-! ### The pins and the transaction -/

/-- A command accepted and then as many edges as its latency: the last one carries it out. -/
theorem edges_presenting_latency {c : Command} {waits : List PinIn} {s : State} (hi : s.inflight = none)
    (hw : ∀ j ∈ waits, j.rst = false) (hlen : waits.length = latency c s) :
    edges (presenting c :: waits) s = execute c (waiting c 0 (waits.length + 1) s) := by
  obtain rfl | ⟨front, last, rfl⟩ := List.eq_nil_or_concat' waits
  · simp [latency] at hlen
  · obtain ⟨hfront, hlast⟩ := List.forall_mem_append.mp hw
    have hr : last.rst = false := hlast last List.mem_cons_self
    rw [List.length_append, List.length_singleton] at hlen ⊢
    have hleft : latency c s - 1 - front.length = 0 := by omega
    rw [← List.cons_append, edges_append (edges_presenting hi hfront (by omega)), edges_singleton, hleft,
      edge_waiting_zero hr, Nat.add_comm 1]

/-- Settles O51: both views carry the command out on states with the registers and FSR of `s`, so with one effect. -/
theorem pinsRefineTheTransaction : Obligations.PinsRefineTheTransaction := by
  refine ⟨?response, ?flight⟩
  case response =>
    intro cmd int waits s hi hw hlen
    obtain ⟨e, he⟩ := effect_execute (presented cmd int) s
    have hstep := step_of_command (s := { s with host := .command cmd int :: s.host }) hi rfl
    exact ⟨_, _, e.response, (edges_presenting_latency hi hw hlen).trans (he _ rfl rfl),
      hstep.trans (he _ rfl rfl), rfl, rfl, rfl, rfl, rfl, rfl, rfl, rfl, rfl, rfl⟩
  case flight =>
    intro c waits s hi hw hlen
    exact ⟨_, edges_presenting hi hw hlen, rfl, rfl, rfl, rfl, rfl⟩

end Sys2Proof.Machine
end
